-- ==== Sys2Proof/Word.lean ====
section
/-! DEFINITION. The two word types of the machine (00_scope.md R8: `u8` and `u16`, bit 0 the least significant). -/

namespace Sys2Proof

/-- `u8`: the content of a general register, of a memory cell and of an instruction byte (R8, R20, R60). -/
abbrev Byte := BitVec 8

/-- `u16`: the content of a register pair, of SP and of PC, and an address an instruction names (R8, R22, R23, R35). -/
abbrev Word := BitVec 16

end Sys2Proof
end

