-- ==== Sys2Proof/Config.lean ====
section
/-! DEFINITION. The parameters the spec leaves to the implementation (00_scope.md R6, 92_eei_decisions.md "Open parameters"),
and the one free value, the byte an input port delivers. -/

namespace Sys2Proof

/-- `TABLE` (R6, R7, R102): the full Intel 8080 map, or only the five opcodes the source document binds. -/
inductive Table where
  | t8080
  | tsrc
  deriving DecidableEq, Repr

/-- `ANA_AC` (R6, R180): what ANA and ANI write to AuxCarry. -/
inductive AnaAc where
  | orBit3
  | clear
  deriving DecidableEq, Repr

/-- The parameters of one machine, fixed for its life (R6, R270). The default values are the spec's own defaults.
`memSize` is `MEM_SIZE`: the valid addresses are 0 to `memSize - 1` (R60, R61). -/
structure Config where
  memSize : Nat := 65536
  table   : Table := .t8080
  anaAc   : AnaAc := .orBit3
  deriving DecidableEq, Repr

/-- R270: `new` takes a memory size from 1 to 65536 and refuses any other. -/
abbrev Config.valid (c : Config) : Prop := 1 ≤ c.memSize ∧ c.memSize ≤ 65536

/-- FREE VALUE (`PORT_IN`, R6, R228, log entry 2): the byte the host answers to `PortRead`, as an arbitrary function of the
port and of the occasion (how many port reads came before). It has no body, so nothing can be proved of its values. -/
opaque Config.portIn : Byte → Nat → Byte

end Sys2Proof
end

