-- ==== Sys2Proof/Syntax.lean ====
section
/-! DEFINITION. The instructions: one constructor for each row of the form table 30_encoding.md R100 (a conditional family has
one for each of its eight mnemonics), and one for the Unimplemented entry of R101. -/

namespace Sys2Proof

/-- The seven general registers (R20). -/
inductive Reg where
  | a | b | c | d | e | h | l
  deriving DecidableEq, Repr

/-- An 8-bit operand `R8(c)` (R94): a register, or `M`, the memory byte at HL. -/
inductive R8 where
  | reg (r : Reg)
  | m
  deriving DecidableEq, Repr

/-- The three register pairs (R22), the operands of PUSH and POP other than PSW (R96). -/
inductive Pair where
  | bc | de | hl
  deriving DecidableEq, Repr

/-- A 16-bit operand `RP(pp)` of LXI, INX, DCX and DAD (R95): a pair or SP. -/
inductive PairSP where
  | pair (p : Pair)
  | sp
  deriving DecidableEq, Repr

/-- The pair of LDAX and STAX, one bit in the opcode (R150, R151). -/
inductive PairBD where
  | bc | de
  deriving DecidableEq, Repr

/-- The branch conditions (R97). -/
inductive Cond where
  | nz | z | nc | c | po | pe | p | m
  deriving DecidableEq, Repr

/-- A vector number, 0 to 7: the operand of RST (R207) and an injected interrupt (R31, R247). -/
abbrev VecNum := Fin 8

/-- The instructions. Operand bytes stand as the spec names them: `d8`, `d16`, `a16`, `port` (R93). -/
inductive Instr where
  -- 40_execution_loop.md
  | nop
  | hlt
  -- 41_data_transfer.md
  | movRR (dst src : Reg)
  | movRM (dst : Reg)
  | movMR (src : Reg)
  | mviR (dst : Reg) (d8 : Byte)
  | mviM (d8 : Byte)
  | lxi (rp : PairSP) (d16 : Word)
  | lda (a16 : Word)
  | sta (a16 : Word)
  | lhld (a16 : Word)
  | shld (a16 : Word)
  | ldax (p : PairBD)
  | stax (p : PairBD)
  | xchg
  -- 42_arithmetic.md
  | add (src : R8)
  | adi (d8 : Byte)
  | adc (src : R8)
  | aci (d8 : Byte)
  | sub (src : R8)
  | sui (d8 : Byte)
  | sbb (src : R8)
  | sbi (d8 : Byte)
  | inr (dst : R8)
  | dcr (dst : R8)
  | inx (rp : PairSP)
  | dcx (rp : PairSP)
  | daa
  | dad (rp : PairSP)
  -- 43_logical.md
  | ana (src : R8)
  | ani (d8 : Byte)
  | xra (src : R8)
  | xri (d8 : Byte)
  | ora (src : R8)
  | ori (d8 : Byte)
  | cmp (src : R8)
  | cpi (d8 : Byte)
  | rlc
  | rrc
  | ral
  | rar
  | cma
  | cmc
  | stc
  -- 44_branch.md
  | jmp (a16 : Word)
  | jnz (a16 : Word)
  | jz (a16 : Word)
  | jnc (a16 : Word)
  | jc (a16 : Word)
  | jpo (a16 : Word)
  | jpe (a16 : Word)
  | jp (a16 : Word)
  | jm (a16 : Word)
  | call (a16 : Word)
  | cnz (a16 : Word)
  | cz (a16 : Word)
  | cnc (a16 : Word)
  | cc (a16 : Word)
  | cpo (a16 : Word)
  | cpe (a16 : Word)
  | cp (a16 : Word)
  | cm (a16 : Word)
  | ret
  | rnz
  | rz
  | rnc
  | rc
  | rpo
  | rpe
  | rp
  | rm
  | rst (n : VecNum)
  | pchl
  -- 45_stack_io_control.md
  | push (p : Pair)
  | pushPsw
  | pop (p : Pair)
  | popPsw
  | xthl
  | sphl
  | inp (port : Byte)
  | out (port : Byte)
  | ei
  | di
  -- 60_exceptions.md R241: the table entry of an opcode with no bound handler
  | unimplemented (op : Byte)
  deriving DecidableEq, Repr

end Sys2Proof
end

