-- ==== Sys2Proof/WellFormed.lean ====
section
/-! DEFINITION. Which instructions a table holds. The operand types already bar every operand the encodings cannot express
(no `MOV M,M`, no `LDAX H`, no `PUSH SP`); what is left to check is which opcodes the machine's table binds. -/

namespace Sys2Proof

/-- R101: the twelve opcode bytes that `T8080` leaves Unimplemented. -/
def unimplementedBytes : List Byte :=
  [0x08, 0x10, 0x18, 0x20, 0x28, 0x30, 0x38, 0xCB, 0xD9, 0xDD, 0xED, 0xFD]

/-- R102, R108: the five opcode bytes that `TSRC` binds. -/
def sourceBytes : List Byte := [0x00, 0x01, 0x02, 0x05, 0x09]

/-- R102, R108: the instructions `TSRC` binds: NOP, LXI B, STAX B, DCR B and DAD B. -/
def Instr.inSource : Instr → Bool
  | .nop => true
  | .lxi x _ => x == .pair .bc
  | .stax p => p == .bc
  | .dcr d => d == .reg .b
  | .dad x => x == .pair .bc
  | _ => false

/-- The instruction is one the table yields (R107): a bound instruction of the table, or the Unimplemented entry of a byte
that the table does not bind. -/
def Instr.wf (t : Table) (i : Instr) : Bool :=
  match t, i with
  | .t8080, .unimplemented op => unimplementedBytes.contains op
  | .t8080, _ => true
  | .tsrc, .unimplemented op => !sourceBytes.contains op
  | .tsrc, i => i.inSource

end Sys2Proof
end

