-- ==== Sys2Proof/Decode.lean ====
section
/-! DEFINITION. The instruction table (30_encoding.md): field codes, lengths, cycle costs, the decoder, the encoder, and the
byte-order helpers they use. -/

namespace Sys2Proof

/-! Bytes and words (R9: `{a, b}`; R67: little-endian). -/

/-- `{hi, lo} = (hi << 8) | lo` (R9). -/
def concat (hi lo : Byte) : Word := hi ++ lo

/-- `w[15:8]`. -/
def hiByte (w : Word) : Byte := w.extractLsb' 8 8

/-- `w[7:0]`. -/
def loByte (w : Word) : Byte := w.extractLsb' 0 8

/-! Field codes (R94 to R97). -/

/-- R94: the 3-bit code of a register. -/
def Reg.code : Reg → BitVec 3
  | .b => 0 | .c => 1 | .d => 2 | .e => 3 | .h => 4 | .l => 5 | .a => 7

/-- R94: the 3-bit code of an 8-bit operand. -/
def R8.code : R8 → BitVec 3
  | .reg r => r.code
  | .m => 6

/-- R94, read as a decoder. -/
def R8.ofCode (c : BitVec 3) : R8 :=
  match c.toNat with
  | 0 => .reg .b | 1 => .reg .c | 2 => .reg .d | 3 => .reg .e
  | 4 => .reg .h | 5 => .reg .l | 6 => .m | _ => .reg .a

/-- R95, R96: the 2-bit code of a pair. -/
def Pair.code : Pair → BitVec 2
  | .bc => 0 | .de => 1 | .hl => 2

/-- R95: the 2-bit code of a 16-bit operand, 11 being SP. -/
def PairSP.code : PairSP → BitVec 2
  | .pair p => p.code
  | .sp => 3

/-- R150, R151: bit 4 of the opcode, 0 for BC and 1 for DE. -/
def PairBD.code : PairBD → BitVec 1
  | .bc => 0 | .de => 1

/-- R97: the 3-bit code of a condition. -/
def Cond.code : Cond → BitVec 3
  | .nz => 0 | .z => 1 | .nc => 2 | .c => 3 | .po => 4 | .pe => 5 | .p => 6 | .m => 7

/-! The encoder (R100). An opcode is written as the three fields bits 7..6, bits 5..3 and bits 2..0. -/

/-- The opcode byte with bits 7..6 `q`, bits 5..3 `y` and bits 2..0 `z` (R98). -/
def opcodeOf (q : BitVec 2) (y z : BitVec 3) : Byte := q ++ y ++ z

/-- The field bits 5..3 of a pattern with `pp` in bits 5..4 and `b` in bit 3 (R95, R96). -/
def ppField (pp : BitVec 2) (b : BitVec 1) : BitVec 3 := pp ++ b

/-- R100: the opcode byte of an instruction. -/
def Instr.opcode : Instr → Byte
  | .nop => opcodeOf 0 0 0
  | .hlt => opcodeOf 1 6 6
  | .movRR dst src => opcodeOf 1 dst.code src.code
  | .movRM dst => opcodeOf 1 dst.code 6
  | .movMR src => opcodeOf 1 6 src.code
  | .mviR dst _ => opcodeOf 0 dst.code 6
  | .mviM _ => opcodeOf 0 6 6
  | .lxi x _ => opcodeOf 0 (ppField x.code 0) 1
  | .lda _ => opcodeOf 0 7 2
  | .sta _ => opcodeOf 0 6 2
  | .lhld _ => opcodeOf 0 5 2
  | .shld _ => opcodeOf 0 4 2
  | .ldax p => opcodeOf 0 (ppField (0#1 ++ p.code) 1) 2
  | .stax p => opcodeOf 0 (ppField (0#1 ++ p.code) 0) 2
  | .xchg => opcodeOf 3 5 3
  | .add s => opcodeOf 2 0 s.code
  | .adc s => opcodeOf 2 1 s.code
  | .sub s => opcodeOf 2 2 s.code
  | .sbb s => opcodeOf 2 3 s.code
  | .ana s => opcodeOf 2 4 s.code
  | .xra s => opcodeOf 2 5 s.code
  | .ora s => opcodeOf 2 6 s.code
  | .cmp s => opcodeOf 2 7 s.code
  | .adi _ => opcodeOf 3 0 6
  | .aci _ => opcodeOf 3 1 6
  | .sui _ => opcodeOf 3 2 6
  | .sbi _ => opcodeOf 3 3 6
  | .ani _ => opcodeOf 3 4 6
  | .xri _ => opcodeOf 3 5 6
  | .ori _ => opcodeOf 3 6 6
  | .cpi _ => opcodeOf 3 7 6
  | .inr d => opcodeOf 0 d.code 4
  | .dcr d => opcodeOf 0 d.code 5
  | .inx x => opcodeOf 0 (ppField x.code 0) 3
  | .dcx x => opcodeOf 0 (ppField x.code 1) 3
  | .dad x => opcodeOf 0 (ppField x.code 1) 1
  | .rlc => opcodeOf 0 0 7
  | .rrc => opcodeOf 0 1 7
  | .ral => opcodeOf 0 2 7
  | .rar => opcodeOf 0 3 7
  | .daa => opcodeOf 0 4 7
  | .cma => opcodeOf 0 5 7
  | .stc => opcodeOf 0 6 7
  | .cmc => opcodeOf 0 7 7
  | .jmp _ => opcodeOf 3 0 3
  | .jnz _ => opcodeOf 3 Cond.nz.code 2
  | .jz _ => opcodeOf 3 Cond.z.code 2
  | .jnc _ => opcodeOf 3 Cond.nc.code 2
  | .jc _ => opcodeOf 3 Cond.c.code 2
  | .jpo _ => opcodeOf 3 Cond.po.code 2
  | .jpe _ => opcodeOf 3 Cond.pe.code 2
  | .jp _ => opcodeOf 3 Cond.p.code 2
  | .jm _ => opcodeOf 3 Cond.m.code 2
  | .call _ => opcodeOf 3 1 5
  | .cnz _ => opcodeOf 3 Cond.nz.code 4
  | .cz _ => opcodeOf 3 Cond.z.code 4
  | .cnc _ => opcodeOf 3 Cond.nc.code 4
  | .cc _ => opcodeOf 3 Cond.c.code 4
  | .cpo _ => opcodeOf 3 Cond.po.code 4
  | .cpe _ => opcodeOf 3 Cond.pe.code 4
  | .cp _ => opcodeOf 3 Cond.p.code 4
  | .cm _ => opcodeOf 3 Cond.m.code 4
  | .ret => opcodeOf 3 1 1
  | .rnz => opcodeOf 3 Cond.nz.code 0
  | .rz => opcodeOf 3 Cond.z.code 0
  | .rnc => opcodeOf 3 Cond.nc.code 0
  | .rc => opcodeOf 3 Cond.c.code 0
  | .rpo => opcodeOf 3 Cond.po.code 0
  | .rpe => opcodeOf 3 Cond.pe.code 0
  | .rp => opcodeOf 3 Cond.p.code 0
  | .rm => opcodeOf 3 Cond.m.code 0
  | .rst n => opcodeOf 3 (BitVec.ofFin n) 7
  | .pchl => opcodeOf 3 5 1
  | .push p => opcodeOf 3 (ppField p.code 0) 5
  | .pushPsw => opcodeOf 3 (ppField 3 0) 5
  | .pop p => opcodeOf 3 (ppField p.code 0) 1
  | .popPsw => opcodeOf 3 (ppField 3 0) 1
  | .xthl => opcodeOf 3 4 3
  | .sphl => opcodeOf 3 7 1
  | .inp _ => opcodeOf 3 3 3
  | .out _ => opcodeOf 3 2 3
  | .ei => opcodeOf 3 7 3
  | .di => opcodeOf 3 6 3
  | .unimplemented op => op

/-- The operand bytes, `b2` then `b3` (R91, R93: a 16-bit operand has its low byte first). -/
def Instr.operands : Instr → List Byte
  | .mviR _ d | .mviM d | .adi d | .aci d | .sui d | .sbi d | .ani d | .xri d | .ori d | .cpi d
  | .inp d | .out d => [d]
  | .lxi _ w | .lda w | .sta w | .lhld w | .shld w | .jmp w | .jnz w | .jz w | .jnc w | .jc w
  | .jpo w | .jpe w | .jp w | .jm w | .call w | .cnz w | .cz w | .cnc w | .cc w | .cpo w
  | .cpe w | .cp w | .cm w => [loByte w, hiByte w]
  | .nop | .hlt | .movRR _ _ | .movRM _ | .movMR _ | .ldax _ | .stax _ | .xchg | .add _ | .adc _ | .sub _ | .sbb _
  | .inr _ | .dcr _ | .inx _ | .dcx _ | .daa | .dad _ | .ana _ | .xra _ | .ora _ | .cmp _ | .rlc | .rrc | .ral | .rar
  | .cma | .cmc | .stc | .ret | .rnz | .rz | .rnc | .rc | .rpo | .rpe | .rp | .rm | .rst _ | .pchl | .push _ | .pushPsw
  | .pop _ | .popPsw | .xthl | .sphl | .ei | .di | .unimplemented _ => []

/-- The bytes of an instruction in memory order (R91). -/
def encode (i : Instr) : List Byte := i.opcode :: i.operands

/-! Lengths and costs (R90, R92, R100, R279). -/

/-- R92, R100: the byte length of the table entry. An Unimplemented entry has no length of its own (R92): here it counts the one
byte that was fetched, and nothing advances by it. -/
def Instr.length : Instr → Nat
  | .lxi _ _ | .shld _ | .lhld _ | .sta _ | .lda _ | .jmp _ | .call _
  | .jnz _ | .jz _ | .jnc _ | .jc _ | .jpo _ | .jpe _ | .jp _ | .jm _
  | .cnz _ | .cz _ | .cnc _ | .cc _ | .cpo _ | .cpe _ | .cp _ | .cm _ => 3
  | .mviR _ _ | .mviM _ | .adi _ | .aci _ | .sui _ | .sbi _ | .ani _ | .xri _ | .ori _ | .cpi _
  | .out _ | .inp _ => 2
  | .nop | .hlt | .movRR _ _ | .movRM _ | .movMR _ | .ldax _ | .stax _ | .xchg | .add _ | .adc _ | .sub _ | .sbb _
  | .inr _ | .dcr _ | .inx _ | .dcx _ | .daa | .dad _ | .ana _ | .xra _ | .ora _ | .cmp _ | .rlc | .rrc | .ral | .rar
  | .cma | .cmc | .stc | .ret | .rnz | .rz | .rnc | .rc | .rpo | .rpe | .rp | .rm | .rst _ | .pchl | .push _ | .pushPsw
  | .pop _ | .popPsw | .xthl | .sphl | .ei | .di | .unimplemented _ => 1

/-- `cyc` of an instruction with an 8-bit operand: one figure for a register, one for M (R100: `a/b`). -/
def R8.cost (x : R8) (forReg forM : Nat) : Nat :=
  match x with
  | .reg _ => forReg
  | .m => forM

/-- R100, R279: the base cycle cost; of a conditional call or return, the cost when it is not taken. -/
def Instr.cost : Instr → Nat
  | .nop | .xchg | .di | .ei | .rlc | .rrc | .ral | .rar | .daa | .cma | .stc | .cmc => 4
  | .add x | .adc x | .sub x | .sbb x | .ana x | .xra x | .ora x | .cmp x => x.cost 4 7
  | .inr x | .dcr x => x.cost 5 10
  | .movRR _ _ | .inx _ | .dcx _ | .pchl | .sphl => 5
  | .rnz | .rz | .rnc | .rc | .rpo | .rpe | .rp | .rm => 5
  | .movRM _ | .movMR _ | .mviR _ _ | .ldax _ | .stax _ | .hlt => 7
  | .adi _ | .aci _ | .sui _ | .sbi _ | .ani _ | .xri _ | .ori _ | .cpi _ => 7
  | .lxi _ _ | .mviM _ | .dad _ | .jmp _ | .ret | .pop _ | .popPsw | .inp _ | .out _ => 10
  | .jnz _ | .jz _ | .jnc _ | .jc _ | .jpo _ | .jpe _ | .jp _ | .jm _ => 10
  | .push _ | .pushPsw | .rst _ => 11
  | .cnz _ | .cz _ | .cnc _ | .cc _ | .cpo _ | .cpe _ | .cp _ | .cm _ => 11
  | .lda _ | .sta _ => 13
  | .lhld _ | .shld _ => 16
  | .call _ => 17
  | .xthl => 18
  | .unimplemented _ => 0

/-- R126, R279: the cycle cost when the instruction transfers control; it differs from the base cost for conditional calls
and returns only (`cyc_taken`). -/
def Instr.costTaken (i : Instr) : Nat :=
  match i with
  | .cnz _ | .cz _ | .cnc _ | .cc _ | .cpo _ | .cpe _ | .cp _ | .cm _ => 17
  | .rnz | .rz | .rnc | .rc | .rpo | .rpe | .rp | .rm => 11
  | .nop | .hlt | .movRR _ _ | .movRM _ | .movMR _ | .mviR _ _ | .mviM _ | .lxi _ _ | .lda _ | .sta _ | .lhld _
  | .shld _ | .ldax _ | .stax _ | .xchg | .add _ | .adi _ | .adc _ | .aci _ | .sub _ | .sui _ | .sbb _ | .sbi _ | .inr _
  | .dcr _ | .inx _ | .dcx _ | .daa | .dad _ | .ana _ | .ani _ | .xra _ | .xri _ | .ora _ | .ori _ | .cmp _ | .cpi _
  | .rlc | .rrc | .ral | .rar | .cma | .cmc | .stc | .jmp _ | .jnz _ | .jz _ | .jnc _ | .jc _ | .jpo _ | .jpe _ | .jp _
  | .jm _ | .call _ | .ret | .rst _ | .pchl | .push _ | .pushPsw | .pop _ | .popPsw | .xthl | .sphl | .inp _ | .out _
  | .ei | .di | .unimplemented _ => i.cost

/-! The decoder (R98 to R102). -/

/-- The conditional jump with a given condition (R202). -/
def Instr.jcond (cnd : Cond) (w : Word) : Instr :=
  match cnd with
  | .nz => .jnz w | .z => .jz w | .nc => .jnc w | .c => .jc w
  | .po => .jpo w | .pe => .jpe w | .p => .jp w | .m => .jm w

/-- The conditional call with a given condition (R204). -/
def Instr.ccond (cnd : Cond) (w : Word) : Instr :=
  match cnd with
  | .nz => .cnz w | .z => .cz w | .nc => .cnc w | .c => .cc w
  | .po => .cpo w | .pe => .cpe w | .p => .cp w | .m => .cm w

/-- The conditional return with a given condition (R206). -/
def Instr.rcond (cnd : Cond) : Instr :=
  match cnd with
  | .nz => .rnz | .z => .rz | .nc => .rnc | .c => .rc
  | .po => .rpo | .pe => .rpe | .p => .rp | .m => .rm

/-- R97, read as a decoder. -/
def Cond.ofCode (c : BitVec 3) : Cond :=
  match c.toNat with
  | 0 => .nz | 1 => .z | 2 => .nc | 3 => .c | 4 => .po | 5 => .pe | 6 => .p | _ => .m

/-- `MOV` in quadrant 01, where `MOV M,M` is HLT (R98). -/
def decodeMov (dst src : R8) : Instr :=
  match dst, src with
  | .reg dst, .reg src => .movRR dst src
  | .reg dst, .m => .movRM dst
  | .m, .reg src => .movMR src
  | .m, .m => .hlt

/-- Quadrant 00 (R98, R100): the field `y` is bits 5..3, `z` is bits 2..0. -/
def decodeQ0 (y z : BitVec 3) (b2 b3 : Byte) : Option Instr :=
  let w := concat b3 b2
  match z.toNat with
  | 0 => if y = 0 then some .nop else none
  | 1 =>
    some (match y.toNat with
      | 0 => .lxi (.pair .bc) w | 1 => .dad (.pair .bc) | 2 => .lxi (.pair .de) w | 3 => .dad (.pair .de)
      | 4 => .lxi (.pair .hl) w | 5 => .dad (.pair .hl) | 6 => .lxi .sp w | _ => .dad .sp)
  | 2 =>
    some (match y.toNat with
      | 0 => .stax .bc | 1 => .ldax .bc | 2 => .stax .de | 3 => .ldax .de
      | 4 => .shld w | 5 => .lhld w | 6 => .sta w | _ => .lda w)
  | 3 =>
    some (match y.toNat with
      | 0 => .inx (.pair .bc) | 1 => .dcx (.pair .bc) | 2 => .inx (.pair .de) | 3 => .dcx (.pair .de)
      | 4 => .inx (.pair .hl) | 5 => .dcx (.pair .hl) | 6 => .inx .sp | _ => .dcx .sp)
  | 4 => some (.inr (.ofCode y))
  | 5 => some (.dcr (.ofCode y))
  | 6 =>
    some (match R8.ofCode y with
      | .reg r => .mviR r b2
      | .m => .mviM b2)
  | _ =>
    some (match y.toNat with
      | 0 => .rlc | 1 => .rrc | 2 => .ral | 3 => .rar
      | 4 => .daa | 5 => .cma | 6 => .stc | _ => .cmc)

/-- Quadrant 10: the accumulator operation `aaa` with the operand `sss` (R98). -/
def decodeQ2 (y z : BitVec 3) : Instr :=
  let x := R8.ofCode z
  match y.toNat with
  | 0 => .add x | 1 => .adc x | 2 => .sub x | 3 => .sbb x
  | 4 => .ana x | 5 => .xra x | 6 => .ora x | _ => .cmp x

/-- Quadrant 11 (R98 to R101). -/
def decodeQ3 (y z : BitVec 3) (b2 b3 : Byte) : Option Instr :=
  let w := concat b3 b2
  match z.toNat with
  | 0 => some (.rcond (.ofCode y))
  | 1 =>
    match y.toNat with
    | 0 => some (.pop .bc) | 1 => some .ret | 2 => some (.pop .de) | 3 => none
    | 4 => some (.pop .hl) | 5 => some .pchl | 6 => some .popPsw | _ => some .sphl
  | 2 => some (.jcond (.ofCode y) w)
  | 3 =>
    match y.toNat with
    | 0 => some (.jmp w) | 1 => none | 2 => some (.out b2) | 3 => some (.inp b2)
    | 4 => some .xthl | 5 => some .xchg | 6 => some .di | _ => some .ei
  | 4 => some (.ccond (.ofCode y) w)
  | 5 =>
    match y.toNat with
    | 0 => some (.push .bc) | 1 => some (.call w) | 2 => some (.push .de) | 3 => none
    | 4 => some (.push .hl) | 5 => none | 6 => some .pushPsw | _ => none
  | 6 =>
    some (match y.toNat with
      | 0 => .adi b2 | 1 => .aci b2 | 2 => .sui b2 | 3 => .sbi b2
      | 4 => .ani b2 | 5 => .xri b2 | 6 => .ori b2 | _ => .cpi b2)
  | _ => some (.rst y.toFin)

/-- The full 8080 map (R99): the bound instruction of an opcode byte with its operand bytes, or none for the twelve bytes of
R101. Operand bytes that the instruction does not have are ignored. -/
def bound8080 (op b2 b3 : Byte) : Option Instr :=
  let y := op.extractLsb' 3 3
  let z := op.extractLsb' 0 3
  match (op.extractLsb' 6 2).toNat with
  | 0 => decodeQ0 y z b2 b3
  | 1 => some (decodeMov (.ofCode y) (.ofCode z))
  | 2 => some (decodeQ2 y z)
  | _ => decodeQ3 y z b2 b3

/-- The instruction table (R107): total on every opcode byte; a byte with no handler in the table yields the Unimplemented
entry (R101, R102). -/
def lookup (t : Table) (op b2 b3 : Byte) : Instr :=
  match t with
  | .t8080 => (bound8080 op b2 b3).getD (.unimplemented op)
  | .tsrc =>
    if sourceBytes.contains op then (bound8080 op b2 b3).getD (.unimplemented op) else .unimplemented op

/-- R92: the length of an opcode's table entry, a function of the opcode byte alone. -/
def opcodeLength (t : Table) (op : Byte) : Nat := (lookup t op 0 0).length

/-! The descriptor (R90). -/

/-- R90, R105: the mnemonic, "diagnostic only". -/
def Instr.mnemonic : Instr → String
  | .nop => "NOP"
  | .hlt => "HLT"
  | .movRR _ _ | .movRM _ | .movMR _ => "MOV"
  | .mviR _ _ | .mviM _ => "MVI"
  | .lxi _ _ => "LXI"
  | .lda _ => "LDA"
  | .sta _ => "STA"
  | .lhld _ => "LHLD"
  | .shld _ => "SHLD"
  | .ldax _ => "LDAX"
  | .stax _ => "STAX"
  | .xchg => "XCHG"
  | .add _ => "ADD"
  | .adi _ => "ADI"
  | .adc _ => "ADC"
  | .aci _ => "ACI"
  | .sub _ => "SUB"
  | .sui _ => "SUI"
  | .sbb _ => "SBB"
  | .sbi _ => "SBI"
  | .inr _ => "INR"
  | .dcr _ => "DCR"
  | .inx _ => "INX"
  | .dcx _ => "DCX"
  | .daa => "DAA"
  | .dad _ => "DAD"
  | .ana _ => "ANA"
  | .ani _ => "ANI"
  | .xra _ => "XRA"
  | .xri _ => "XRI"
  | .ora _ => "ORA"
  | .ori _ => "ORI"
  | .cmp _ => "CMP"
  | .cpi _ => "CPI"
  | .rlc => "RLC"
  | .rrc => "RRC"
  | .ral => "RAL"
  | .rar => "RAR"
  | .cma => "CMA"
  | .cmc => "CMC"
  | .stc => "STC"
  | .jmp _ => "JMP"
  | .jnz _ => "JNZ"
  | .jz _ => "JZ"
  | .jnc _ => "JNC"
  | .jc _ => "JC"
  | .jpo _ => "JPO"
  | .jpe _ => "JPE"
  | .jp _ => "JP"
  | .jm _ => "JM"
  | .call _ => "CALL"
  | .cnz _ => "CNZ"
  | .cz _ => "CZ"
  | .cnc _ => "CNC"
  | .cc _ => "CC"
  | .cpo _ => "CPO"
  | .cpe _ => "CPE"
  | .cp _ => "CP"
  | .cm _ => "CM"
  | .ret => "RET"
  | .rnz => "RNZ"
  | .rz => "RZ"
  | .rnc => "RNC"
  | .rc => "RC"
  | .rpo => "RPO"
  | .rpe => "RPE"
  | .rp => "RP"
  | .rm => "RM"
  | .rst _ => "RST"
  | .pchl => "PCHL"
  | .push _ | .pushPsw => "PUSH"
  | .pop _ | .popPsw => "POP"
  | .xthl => "XTHL"
  | .sphl => "SPHL"
  | .inp _ => "IN"
  | .out _ => "OUT"
  | .ei => "EI"
  | .di => "DI"
  | .unimplemented _ => "UNIMPLEMENTED"

/-- R90: the immutable descriptor of a bound opcode; `cycTaken` is the second figure of a conditional call or return (R126). -/
structure Descriptor where
  opcode   : Byte
  mnemonic : String
  length   : Nat
  cyc      : Nat
  cycTaken : Nat
  deriving DecidableEq, Repr

/-- R107: `TABLE : u8 -> Descriptor | Unimplemented`, total; none stands for Unimplemented. -/
def descriptor (t : Table) (op : Byte) : Option Descriptor :=
  match lookup t op 0 0 with
  | .unimplemented _ => none
  | i => some { opcode := op, mnemonic := i.mnemonic, length := i.length, cyc := i.cost, cycTaken := i.costTaken }

/-- Why a byte list is no instruction: it is empty, or it ends before the operand bytes the opcode declares. -/
inductive DecodeError where
  | noOpcode
  | operandsMissing (op : Byte)
  deriving DecidableEq, Repr

/-- Decode the first instruction of a byte list (R90 to R93, R107); the second component is what follows it. Every opcode
byte decodes, an unbound one to the Unimplemented entry; a list that ends too early is refused by name. -/
def decode (t : Table) : List Byte → Except DecodeError (Instr × List Byte)
  | [] => .error .noOpcode
  | op :: rest =>
    match opcodeLength t op, rest with
    | 1, rest => .ok (lookup t op 0 0, rest)
    | 2, b2 :: rest => .ok (lookup t op b2 0, rest)
    | 3, b2 :: b3 :: rest => .ok (lookup t op b2 b3, rest)
    | _, _ => .error (.operandsMissing op)

/-- The bytes of a table word: bit 0 of the word is bit 0 of the first byte, and the bits from `nbits` up are 0. Three bytes, the
longest instruction (R91). -/
def tableBytes (nbits w : Nat) : List Byte :=
  let v := w % 2 ^ nbits
  [BitVec.ofNat 8 v, BitVec.ofNat 8 (v / 256), BitVec.ofNat 8 (v / 65536)]

/-- The instruction the decoder reads from a word of spec/opcode_table.json, under the default table `T8080`. -/
def decodeTableWord (nbits w : Nat) : Option Instr :=
  match decode .t8080 (tableBytes nbits w) with
  | .ok (i, _) => some i
  | .error _ => none

end Sys2Proof
end

