-- ==== Sys2Proof/Machine/State.lean ====
section
/-! DEFINITION. The machine's state (10_state.md: the state tuple, "and nothing else"), its parameters beside it, the reasons a
step can stop, and the state after reset. -/

namespace Sys2Proof.Machine

/-- The five status flags (R24). The reserved bits of the flag byte are no state (R29). -/
structure Flags where
  z  : Bool
  s  : Bool
  p  : Bool
  cy : Bool
  ac : Bool
  deriving DecidableEq, Repr

/-- The execution status (R32). -/
inductive Status where
  | running
  | halted
  | faulted
  deriving DecidableEq, Repr

/-- Which access of a step was refused (R244). -/
inductive Access where
  | fetch
  | operand
  | read
  | write
  | interrupt
  deriving DecidableEq, Repr

/-- The fault record (R34, R244), one constructor for each of the machine's two faults (R240). `pc` is the address of the opcode
byte, or the `pc` at the start of the step for an interrupt entry; `opcode` is the fetched byte, none where nothing was fetched;
`addr` is the out-of-range address, a natural number because it can be 0x10000 (R72). -/
inductive FaultRecord where
  | unimplementedOpcode (pc : Word) (opcode : Byte)
  | addressOutOfRange (pc : Word) (opcode : Option Byte) (addr : Nat) (access : Access)
  deriving DecidableEq, Repr

/-- Memory as plain data: address and byte pairs (Host.Cell), kept in the canonical form `Memory.wf` of Machine/Memory.lean. -/
abbrev Memory := List Host.Cell

/-- The state of the machine. -/
structure State where
  /-- The parameters `MEM_SIZE`, `TABLE`, `ANA_AC` of this machine (R6): set by `new` (R270), written by nothing else. -/
  cfg : Config
  /-- The seven general registers (R20). -/
  a : Byte
  b : Byte
  c : Byte
  d : Byte
  e : Byte
  h : Byte
  l : Byte
  /-- The stack pointer (R23). -/
  sp : Word
  /-- The program counter: the address of the next opcode byte (R35). -/
  pc : Word
  /-- The five flags (R24). -/
  fl : Flags
  /-- The interrupt-enable bit (R30). -/
  inte : Bool
  /-- The pending injected vector (R31). -/
  pending : Option VecNum
  /-- The execution status (R32). -/
  status : Status
  /-- The running cycle total, unbounded (R33). -/
  cycles : Nat
  /-- The fault record (R34, R244). -/
  fault : Option FaultRecord
  /-- The memory array (R60). -/
  mem : Memory
  /-- The model's own: how many `PortRead` requests the core has made, the occasion of the free value `Config.portIn` (R228). -/
  portReads : Nat
  /-- The model's own: the `PortWrite` events, (port, value), oldest first (R229). -/
  portWrites : List (Byte × Byte)
  deriving DecidableEq, Repr

/-- The faults that END a run of the model. There is none: both faults of the machine (R240) leave the machine in a state that the
spec describes (R243: status Faulted, the fault record written, all else unchanged), so a faulting step is a NEXT state and no
step, and no meaning, ever raises a `Fault`. Safe: nothing is lost by an outcome that cannot occur. -/
inductive Fault where
  deriving DecidableEq, Repr

/-- The refusals. -/
inductive Refusal where
  /-- Raised by an arm of `exec` for an instruction that has no meaning yet; no arm does. Safe: the model stops. -/
  | notModelled (mnemonic : String)
  /-- `StepRefused(status)` (R121, R245): raised by `step` in the state Halted or Faulted, and only there, exactly as the spec has
  it: "rejected without side effects". Safe: it is the machine's own behaviour. -/
  | stepRefused (status : Status)
  deriving DecidableEq, Repr

/-- What `new` leaves unspecified (R50: `RESET_REGS` and the memory contents): an input of construction. -/
structure ResetInput where
  a : Byte
  b : Byte
  c : Byte
  d : Byte
  e : Byte
  h : Byte
  l : Byte
  sp : Word
  fl : Flags
  mem : Memory
  deriving DecidableEq, Repr

/-- R51, the test profile `ZERO`: registers, SP and flags zero; every memory byte reads 0x00 (the convention of R270). -/
def ResetInput.zero : ResetInput :=
  { a := 0, b := 0, c := 0, d := 0, e := 0, h := 0, l := 0, sp := 0,
    fl := { z := false, s := false, p := false, cy := false, ac := false }, mem := [] }

/-- R51, the test profile `SRC`: registers and SP one, flags true. -/
def ResetInput.src : ResetInput :=
  { a := 1, b := 1, c := 1, d := 1, e := 1, h := 1, l := 1, sp := 1,
    fl := { z := true, s := true, p := true, cy := true, ac := true }, mem := [] }

/-- The state that `new` constructs (R50, R270) for given parameters and given values of what R50 leaves unspecified. -/
def State.create (cfg : Config) (r : ResetInput) : State :=
  { cfg := cfg, a := r.a, b := r.b, c := r.c, d := r.d, e := r.e, h := r.h, l := r.l, sp := r.sp, fl := r.fl, mem := r.mem,
    pc := 0, inte := false, pending := none, status := .running, cycles := 0, fault := none,
    portReads := 0, portWrites := [] }

/-- The machine right after reset: `new(65536)` with the spec's default parameters. R50 fixes pc, status, inte, pending, cycles and
fault; the values of the registers, SP and the flags are the profile `ZERO` and memory lists nothing (log entries 1 and 3). -/
def State.reset : State := State.create {} .zero

end Sys2Proof.Machine
end

