-- ==== Sys2Proof/Machine/Flags.lean ====
section
/-! DEFINITION. The flag unit and the ALU: every flag computation of the spec (10_state.md R24 to R29, 42_arithmetic.md R160,
R161, R174, R175, 43_logical.md R180, R189 to R192). -/

namespace Sys2Proof.Machine

/-- R25: "Zero: result equals 0", at any declared width. -/
def isZero {w : Nat} (v : BitVec w) : Bool := v == 0

/-- R25: "Sign: most significant bit of the result (within its declared width) is set". -/
def isNegative {w : Nat} (v : BitVec w) : Bool := v.msb

/-- R26: true when the count of set bits is even. -/
def parity8 (v : Byte) : Bool :=
  ((v.getLsbD 0).toNat + (v.getLsbD 1).toNat + (v.getLsbD 2).toNat + (v.getLsbD 3).toNat
    + (v.getLsbD 4).toNat + (v.getLsbD 5).toNat + (v.getLsbD 6).toNat + (v.getLsbD 7).toNat) % 2 == 0

/-- R25: `szp(v)`, the flags with Zero, Sign and Parity set from a result. -/
def Flags.szp (fl : Flags) (v : Byte) : Flags :=
  { fl with z := isZero v, s := isNegative v, p := parity8 v }

/-- A result with the carry and the auxiliary carry of the operation that made it. -/
structure AluOut where
  res : Byte
  cy  : Bool
  ac  : Bool
  deriving DecidableEq, Repr

/-- R160: the 8-bit adder with carry-in. -/
def add8 (x y : Byte) (cin : Bool) : AluOut :=
  let sum := x.toNat + y.toNat + cin.toNat
  { res := BitVec.ofNat 8 sum
    cy := decide (sum > 255)
    ac := decide (x.toNat % 16 + y.toNat % 16 + cin.toNat > 15) }

/-- R161: the 8-bit subtractor with borrow-in, as the adder applied to `255 - y` with an inverted carry-in and an inverted
carry-out. -/
def sub8 (x y : Byte) (bin : Bool) : AluOut :=
  let r := add8 x (255 - y) (!bin)
  { r with cy := !r.cy }

/-- All five flags from an ALU result (section 2 of 42_arithmetic.md). -/
def Flags.ofAlu (r : AluOut) : Flags :=
  { z := isZero r.res, s := isNegative r.res, p := parity8 r.res, cy := r.cy, ac := r.ac }

/-- R180: AND, with the AuxCarry that the parameter `ANA_AC` selects. -/
def and8 (anaAc : AnaAc) (x y : Byte) : AluOut :=
  { res := x &&& y
    cy := false
    ac := match anaAc with
      | .orBit3 => (x ||| y).getLsbD 3
      | .clear => false }

/-- R180, R183: exclusive OR; Carry and AuxCarry cleared. -/
def xor8 (x y : Byte) : AluOut := { res := x ^^^ y, cy := false, ac := false }

/-- R180, R185: OR; Carry and AuxCarry cleared. -/
def or8 (x y : Byte) : AluOut := { res := x ||| y, cy := false, ac := false }

/-- R170: increment; AuxCarry is that of `add8(v, 1, 0)`. -/
def inc8 (v : Byte) : Byte := v + 1

/-- R170: the flags after INR of `v`; Carry is not written. -/
def Flags.afterInr (fl : Flags) (v : Byte) : Flags :=
  { fl.szp (inc8 v) with ac := v.toNat % 16 == 15 }

/-- R171: decrement. -/
def dec8 (v : Byte) : Byte := v - 1

/-- R171: the flags after DCR of `v`; Carry is not written. -/
def Flags.afterDcr (fl : Flags) (v : Byte) : Flags :=
  { fl.szp (dec8 v) with ac := v.toNat % 16 != 0 }

/-- R174: the correction byte of DAA, and whether the high correction is applied. -/
def daaCorrection (x : Byte) (cy ac : Bool) : Byte × Bool :=
  let lo := x.toNat % 16
  let hi := x.toNat / 16
  let low := ac || decide (lo > 9)
  let high := cy || decide (hi > 9) || (decide (hi ≥ 9) && decide (lo > 9))
  ((if low then 0x06 else 0) + (if high then 0x60 else 0), high)

/-- R174: decimal adjust. Carry is set when the high correction is applied and otherwise keeps its value, which is then
false. -/
def daa8 (x : Byte) (cy ac : Bool) : AluOut :=
  let corr := daaCorrection x cy ac
  let r := add8 x corr.1 false
  { r with cy := cy || corr.2 }

/-- R175: the 16-bit sum of DAD and its carry out of bit 15. -/
def add16 (x y : Word) : Word × Bool :=
  let sum := x.toNat + y.toNat
  (BitVec.ofNat 16 sum, decide (sum > 65535))

/-- R189: RLC, the rotated byte and the new Carry. -/
def rlc8 (x : Byte) : Byte × Bool := ((x <<< 1) ||| (x >>> 7), x.getLsbD 7)

/-- R190: RRC. -/
def rrc8 (x : Byte) : Byte × Bool := ((x >>> 1) ||| (x <<< 7), x.getLsbD 0)

/-- R191: RAL, through Carry. -/
def ral8 (x : Byte) (cy : Bool) : Byte × Bool := ((x <<< 1) ||| BitVec.ofNat 8 cy.toNat, x.getLsbD 7)

/-- R192: RAR, through Carry. -/
def rar8 (x : Byte) (cy : Bool) : Byte × Bool := ((x >>> 1) ||| (BitVec.ofNat 8 cy.toNat <<< 7), x.getLsbD 0)

/-- R29: the 8-bit image of the flags, bits 7 to 0: S, Z, 0, AC, 0, P, 1, CY. -/
def Flags.toByte (fl : Flags) : Byte :=
  BitVec.ofBool fl.s ++ BitVec.ofBool fl.z ++ 0#1 ++ BitVec.ofBool fl.ac ++ 0#1 ++ BitVec.ofBool fl.p ++ 1#1
    ++ BitVec.ofBool fl.cy

/-- R29: `setflags(b)`; bits 5, 3 and 1 are ignored. -/
def Flags.ofByte (v : Byte) : Flags :=
  { s := v.getLsbD 7, z := v.getLsbD 6, ac := v.getLsbD 4, p := v.getLsbD 2, cy := v.getLsbD 0 }

/-- R97: the branch condition, read from the flags. -/
def Flags.cond (fl : Flags) : Cond → Bool
  | .nz => !fl.z
  | .z => fl.z
  | .nc => !fl.cy
  | .c => fl.cy
  | .po => !fl.p
  | .pe => fl.p
  | .p => !fl.s
  | .m => fl.s

end Sys2Proof.Machine
end

