-- ==== Sys2Proof/Machine/Memory.lean ====
section
/-! DEFINITION. Memory as a canonical list of (address, byte) pairs (20_memory.md R60): reading and writing one byte. -/

namespace Sys2Proof.Machine

/-- What an unlisted address reads as. The spec leaves the contents after construction unspecified (R50, D23); its test
convention is 0x00 (R270; log entry 3). -/
def unlistedByte : Byte := 0

/-- The byte at an address. -/
def Memory.read : Memory → Nat → Byte
  | [], _ => unlistedByte
  | (k, v) :: m, x => if k = x then v else Memory.read m x

/-- The memory without a given address. -/
def Memory.erase (m : Memory) (x : Nat) : Memory := m.filter (fun cell => cell.1 != x)

/-- The memory with a cell put before the first higher address. -/
def Memory.insert : Memory → Nat → Byte → Memory
  | [], x, v => [(x, v)]
  | (k, w) :: m, x, v => if x < k then (x, v) :: (k, w) :: m else (k, w) :: Memory.insert m x v

/-- Write the byte at an address, keeping the canonical form: writing what an unlisted address reads as removes the entry. -/
def Memory.write (m : Memory) (x : Nat) (v : Byte) : Memory :=
  if v = unlistedByte then m.erase x else (m.erase x).insert x v

/-- Write a byte sequence at increasing addresses (`load`, R66). -/
def Memory.writeAll : Memory → Nat → List Byte → Memory
  | m, _, [] => m
  | m, x, v :: vs => Memory.writeAll (m.write x v) (x + 1) vs

/-- The canonical form: addresses strictly rising, and no entry equal to what an unlisted address reads as. -/
abbrev Memory.wf (m : Memory) : Prop :=
  m.Pairwise (fun x y => x.1 < y.1) ∧ ∀ cell ∈ m, cell.2 ≠ unlistedByte

end Sys2Proof.Machine
end

