-- ==== Sys2Proof/Machine/Ops.lean ====
section
/-! DEFINITION. The named operations over registers and memory, taking a fault, taking the injected interrupt, and the central
completion of an instruction (20_memory.md R61 to R65, 45_stack_io_control.md R220, R221, R228, R229, 60_exceptions.md R243, R249,
40_execution_loop.md R125, R126). -/

namespace Sys2Proof.Machine

/-- A refused access: the first out-of-range address of the step and which access it was (R242, R244). -/
structure AccessFault where
  addr   : Nat
  access : Access
  deriving DecidableEq, Repr

/-! Registers (R20 to R22). -/

/-- `x[r]`. -/
def State.getReg (s : State) : Reg → Byte
  | .a => s.a
  | .b => s.b
  | .c => s.c
  | .d => s.d
  | .e => s.e
  | .h => s.h
  | .l => s.l

/-- `x[r] <- v`. -/
def State.setReg (s : State) (r : Reg) (v : Byte) : State :=
  match r with
  | .a => { s with a := v }
  | .b => { s with b := v }
  | .c => { s with c := v }
  | .d => { s with d := v }
  | .e => { s with e := v }
  | .h => { s with h := v }
  | .l => { s with l := v }

/-- R22: the high register of a pair. -/
def pairHi : Pair → Reg
  | .bc => .b
  | .de => .d
  | .hl => .h

/-- R22: the low register of a pair. -/
def pairLo : Pair → Reg
  | .bc => .c
  | .de => .e
  | .hl => .l

/-- `rp[p]` (R22). -/
def State.getPair (s : State) (p : Pair) : Word := concat (s.getReg (pairHi p)) (s.getReg (pairLo p))

/-- `rp[p] <- v` (R22): the high byte to the high register, the low byte to the low register. -/
def State.setPair (s : State) (p : Pair) (v : Word) : State :=
  (s.setReg (pairHi p) (hiByte v)).setReg (pairLo p) (loByte v)

/-- `rp[HL]`. -/
def State.hl (s : State) : Word := s.getPair .hl

/-! Memory accesses (R61 to R65). The address is a natural number and does not wrap (R72). -/

/-- `MemRead(addr, 1)` (R62). -/
def State.memRead1 (s : State) (acc : Access) (x : Nat) : Except AccessFault Byte :=
  if s.cfg.memSize ≤ x then .error { addr := x, access := acc } else .ok (s.mem.read x)

/-- `MemRead(addr, 2)` (R64): low byte at `addr`, high byte at `addr + 1`. -/
def State.memRead2 (s : State) (acc : Access) (x : Nat) : Except AccessFault Word := do
  let lo ← s.memRead1 acc x
  let hi ← s.memRead1 acc (x + 1)
  return concat hi lo

/-- `MemWrite(addr, 1, v)` (R63). -/
def State.memWrite1 (s : State) (acc : Access) (x : Nat) (v : Byte) : Except AccessFault State :=
  if s.cfg.memSize ≤ x then .error { addr := x, access := acc } else .ok { s with mem := s.mem.write x v }

/-- `MemWrite(addr, 2, v)` (R65): both range checks come before both byte writes. -/
def State.memWrite2 (s : State) (acc : Access) (x : Nat) (v : Word) : Except AccessFault State :=
  if s.cfg.memSize ≤ x then .error { addr := x, access := acc }
  else if s.cfg.memSize ≤ x + 1 then .error { addr := x + 1, access := acc }
  else .ok { s with mem := (s.mem.write x (loByte v)).write (x + 1) (hiByte v) }

/-! The stack (R220, R221). -/

/-- `push16(v)` (R220). `acc` is `write`, or `interrupt` for an interrupt entry (R244). -/
def State.push16 (s : State) (acc : Access) (v : Word) : Except AccessFault State := do
  let nsp := s.sp - 2
  let t ← s.memWrite2 acc nsp.toNat v
  return { t with sp := nsp }

/-- `pop16()` (R221): the popped word and the state with SP moved. -/
def State.pop16 (s : State) : Except AccessFault (Word × State) := do
  let v ← s.memRead2 .read s.sp.toNat
  return (v, { s with sp := s.sp + 2 })

/-! Input and output ports (R228, R229). -/

/-- `PortRead(p)` (R228): the byte the host supplies, a free value, and the state with the occasion counted. -/
def State.portRead (s : State) (port : Byte) : Byte × State :=
  (Config.portIn port s.portReads, { s with portReads := s.portReads + 1 })

/-- `PortWrite(p, v)` (R229): one event, after those already emitted. -/
def State.portWrite (s : State) (port v : Byte) : State :=
  { s with portWrites := s.portWrites ++ [(port, v)] }

/-! Faults and the interrupt (60_exceptions.md). -/

/-- TAKING A FAULT (R243): the state before the step but for `status` and `fault`. -/
def State.takeFault (s : State) (r : FaultRecord) : State :=
  { s with status := .faulted, fault := some r }

/-- The entry address `8 * n` of a vector (R207, R249). -/
def vectorAddress (n : VecNum) : Word := BitVec.ofNat 16 (8 * n.val)

/-- The vector that the interrupt check of this step takes, if any (R122, R248). -/
def State.interruptDue (s : State) : Option VecNum :=
  if s.inte then s.pending else none

/-- TAKING THE INJECTED INTERRUPT (R249), a whole step. A push out of range is its only fault; then nothing changes but `status`
and `fault`, and the vector is still pending. -/
def State.interruptEntry (s : State) (n : VecNum) : State :=
  match s.push16 .interrupt s.pc with
  | .error f => s.takeFault (.addressOutOfRange s.pc none f.addr f.access)
  | .ok t => { t with pc := vectorAddress n, inte := false, pending := none, cycles := s.cycles + 11 }

/-! Completing an instruction (R125, R126, R243). -/

/-- What an instruction's rule leaves when it raises nothing: it did not write `pc`, or it wrote the target to it (R125). -/
inductive Effect where
  | advance (t : State)
  | redirect (t : State) (target : Word)
  deriving DecidableEq, Repr

/-- Phases S4 and S5 (R125, R126) for an instruction whose rule, run on `s`, left the given effect. A raised access fault commits
nothing (R243) and is recorded with the instruction's opcode byte (R244). -/
def finish (i : Instr) (s : State) : Except AccessFault Effect → Host.Outcome State Fault Refusal
  | .ok (.advance t) => .next { t with pc := s.pc + BitVec.ofNat 16 i.length, cycles := s.cycles + i.cost }
  | .ok (.redirect t target) => .next { t with pc := target, cycles := s.cycles + i.costTaken }
  | .error f => .next (s.takeFault (.addressOutOfRange s.pc (some i.opcode) f.addr f.access))

end Sys2Proof.Machine
end

