-- ==== Sys2Proof/Machine/Operands.lean ====
section
/-! DEFINITION. Operand forms (30_encoding.md R94 to R96): the 8-bit operand with its M form, the 16-bit operand with its SP
form, the pair of LDAX and STAX, and the PSW word. -/

namespace Sys2Proof.Machine

/-- `R8(c)` (R94): a register, or for M the byte at HL. -/
def State.readR8 (s : State) : R8 → Except AccessFault Byte
  | .reg r => .ok (s.getReg r)
  | .m => s.memRead1 .read s.hl.toNat

/-- `R8(c) <- v` (R94). -/
def State.writeR8 (s : State) (x : R8) (v : Byte) : Except AccessFault State :=
  match x with
  | .reg r => .ok (s.setReg r v)
  | .m => s.memWrite1 .write s.hl.toNat v

/-- `RP(pp)` (R95). -/
def State.getRP (s : State) : PairSP → Word
  | .pair p => s.getPair p
  | .sp => s.sp

/-- `RP(pp) <- v` (R95). -/
def State.setRP (s : State) (x : PairSP) (v : Word) : State :=
  match x with
  | .pair p => s.setPair p v
  | .sp => { s with sp := v }

/-- R150, R151: the pair of LDAX and STAX. -/
def pairOfBD : PairBD → Pair
  | .bc => .bc
  | .de => .de

/-- R38, R223: `PSW = {x[A], flagbyte()}`. -/
def State.psw (s : State) : Word := concat s.a s.fl.toByte

/-- R225: A from the high byte, the flags from the low byte. -/
def State.setPsw (s : State) (w : Word) : State :=
  { s with a := hiByte w, fl := Flags.ofByte (loByte w) }

/-- A result to A and all five flags (R162 to R169, R181 to R186). -/
def State.setAcc (s : State) (r : AluOut) : State :=
  { s with a := r.res, fl := Flags.ofAlu r }

/-- All five flags from a result that is discarded (R187, R188). -/
def State.setCompare (s : State) (r : AluOut) : State :=
  { s with fl := Flags.ofAlu r }

/-- A rotated byte to A, and Carry, no other flag (R189 to R192). -/
def State.setRotate (s : State) (r : Byte × Bool) : State :=
  { s with a := r.1, fl := { s.fl with cy := r.2 } }

/-- Carry alone (R194, R195). -/
def State.setCarry (s : State) (v : Bool) : State :=
  { s with fl := { s.fl with cy := v } }

end Sys2Proof.Machine
end

