-- ==== Sys2Proof/Machine/Arith.lean ====
section
/-! DEFINITION. The arithmetic instructions (42_arithmetic.md R160 to R175). -/

namespace Sys2Proof.Machine

/-- R162: add to A. -/
def execAdd (src : R8) (s : State) : Host.Outcome State Fault Refusal :=
  finish (.add src) s (do
    let v ← s.readR8 src
    return .advance (s.setAcc (add8 s.a v false)))

/-- R163: add immediate. -/
def execAdi (d8 : Byte) (s : State) : Host.Outcome State Fault Refusal :=
  finish (.adi d8) s (.ok (.advance (s.setAcc (add8 s.a d8 false))))

/-- R164: add with carry. -/
def execAdc (src : R8) (s : State) : Host.Outcome State Fault Refusal :=
  finish (.adc src) s (do
    let v ← s.readR8 src
    return .advance (s.setAcc (add8 s.a v s.fl.cy)))

/-- R165: add immediate with carry. -/
def execAci (d8 : Byte) (s : State) : Host.Outcome State Fault Refusal :=
  finish (.aci d8) s (.ok (.advance (s.setAcc (add8 s.a d8 s.fl.cy))))

/-- R166: subtract from A. -/
def execSub (src : R8) (s : State) : Host.Outcome State Fault Refusal :=
  finish (.sub src) s (do
    let v ← s.readR8 src
    return .advance (s.setAcc (sub8 s.a v false)))

/-- R167: subtract immediate. -/
def execSui (d8 : Byte) (s : State) : Host.Outcome State Fault Refusal :=
  finish (.sui d8) s (.ok (.advance (s.setAcc (sub8 s.a d8 false))))

/-- R168: subtract with borrow. -/
def execSbb (src : R8) (s : State) : Host.Outcome State Fault Refusal :=
  finish (.sbb src) s (do
    let v ← s.readR8 src
    return .advance (s.setAcc (sub8 s.a v s.fl.cy)))

/-- R169: subtract immediate with borrow. -/
def execSbi (d8 : Byte) (s : State) : Host.Outcome State Fault Refusal :=
  finish (.sbi d8) s (.ok (.advance (s.setAcc (sub8 s.a d8 s.fl.cy))))

/-- R170: the 8-bit operand plus one; Z, S, P and AC are written, Carry is not. -/
def execInr (dst : R8) (s : State) : Host.Outcome State Fault Refusal :=
  finish (.inr dst) s (do
    let v ← s.readR8 dst
    let t ← s.writeR8 dst (inc8 v)
    return .advance { t with fl := s.fl.afterInr v })

/-- R171: the 8-bit operand minus one; Z, S, P and AC are written, Carry is not. -/
def execDcr (dst : R8) (s : State) : Host.Outcome State Fault Refusal :=
  finish (.dcr dst) s (do
    let v ← s.readR8 dst
    let t ← s.writeR8 dst (dec8 v)
    return .advance { t with fl := s.fl.afterDcr v })

/-- R172: `RP(pp) <- (RP(pp) + 1) mod 65536`; no flag. -/
def execInx (x : PairSP) (s : State) : Host.Outcome State Fault Refusal :=
  finish (.inx x) s (.ok (.advance (s.setRP x (s.getRP x + 1))))

/-- R173: `RP(pp) <- (RP(pp) - 1) mod 65536`; no flag. -/
def execDcx (x : PairSP) (s : State) : Host.Outcome State Fault Refusal :=
  finish (.dcx x) s (.ok (.advance (s.setRP x (s.getRP x - 1))))

/-- R174: decimal adjust A. -/
def execDaa (s : State) : Host.Outcome State Fault Refusal :=
  finish .daa s (.ok (.advance (s.setAcc (daa8 s.a s.fl.cy s.fl.ac))))

/-- R175: `rp[HL] <- rp[HL] + RP(pp)`; Carry is the carry out of bit 15, no other flag is written. -/
def execDad (x : PairSP) (s : State) : Host.Outcome State Fault Refusal :=
  let r := add16 s.hl (s.getRP x)
  finish (.dad x) s (.ok (.advance ((s.setPair .hl r.1).setCarry r.2)))

end Sys2Proof.Machine
end

