-- ==== Sys2Proof/Machine/Branch.lean ====
section
/-! DEFINITION. The control transfer instructions (44_branch.md R200 to R208). -/

namespace Sys2Proof.Machine

/-- R202: the effect of a conditional jump. -/
def jumpIf (cnd : Cond) (a16 : Word) (s : State) : Except AccessFault Effect :=
  if s.fl.cond cnd then .ok (.redirect s a16) else .ok (.advance s)

/-- R203: the effect of a call: push the address of the next instruction, then transfer. -/
def callTo (a16 : Word) (s : State) : Except AccessFault Effect := do
  let t ← s.push16 .write (s.pc + 3)
  return .redirect t a16

/-- R204: the effect of a conditional call. -/
def callIf (cnd : Cond) (a16 : Word) (s : State) : Except AccessFault Effect :=
  if s.fl.cond cnd then callTo a16 s else .ok (.advance s)

/-- R205: the effect of a return: the popped word is the next `pc`. -/
def returnFrom (s : State) : Except AccessFault Effect := do
  let r ← s.pop16
  return .redirect r.2 r.1

/-- R206: the effect of a conditional return. -/
def returnIf (cnd : Cond) (s : State) : Except AccessFault Effect :=
  if s.fl.cond cnd then returnFrom s else .ok (.advance s)

/-- R201: jump. -/
def execJmp (a16 : Word) (s : State) : Host.Outcome State Fault Refusal :=
  finish (.jmp a16) s (.ok (.redirect s a16))

/-- R202: jump if Zero clear. -/
def execJnz (a16 : Word) (s : State) : Host.Outcome State Fault Refusal :=
  finish (.jnz a16) s (jumpIf .nz a16 s)

/-- R202: jump if Zero set. -/
def execJz (a16 : Word) (s : State) : Host.Outcome State Fault Refusal :=
  finish (.jz a16) s (jumpIf .z a16 s)

/-- R202: jump if Carry clear. -/
def execJnc (a16 : Word) (s : State) : Host.Outcome State Fault Refusal :=
  finish (.jnc a16) s (jumpIf .nc a16 s)

/-- R202: jump if Carry set. -/
def execJc (a16 : Word) (s : State) : Host.Outcome State Fault Refusal :=
  finish (.jc a16) s (jumpIf .c a16 s)

/-- R202: jump if Parity clear. -/
def execJpo (a16 : Word) (s : State) : Host.Outcome State Fault Refusal :=
  finish (.jpo a16) s (jumpIf .po a16 s)

/-- R202: jump if Parity set. -/
def execJpe (a16 : Word) (s : State) : Host.Outcome State Fault Refusal :=
  finish (.jpe a16) s (jumpIf .pe a16 s)

/-- R202: jump if Sign clear. -/
def execJp (a16 : Word) (s : State) : Host.Outcome State Fault Refusal :=
  finish (.jp a16) s (jumpIf .p a16 s)

/-- R202: jump if Sign set. -/
def execJm (a16 : Word) (s : State) : Host.Outcome State Fault Refusal :=
  finish (.jm a16) s (jumpIf .m a16 s)

/-- R203: call subroutine. -/
def execCall (a16 : Word) (s : State) : Host.Outcome State Fault Refusal :=
  finish (.call a16) s (callTo a16 s)

/-- R204: call if Zero clear. -/
def execCnz (a16 : Word) (s : State) : Host.Outcome State Fault Refusal :=
  finish (.cnz a16) s (callIf .nz a16 s)

/-- R204: call if Zero set. -/
def execCz (a16 : Word) (s : State) : Host.Outcome State Fault Refusal :=
  finish (.cz a16) s (callIf .z a16 s)

/-- R204: call if Carry clear. -/
def execCnc (a16 : Word) (s : State) : Host.Outcome State Fault Refusal :=
  finish (.cnc a16) s (callIf .nc a16 s)

/-- R204: call if Carry set. -/
def execCc (a16 : Word) (s : State) : Host.Outcome State Fault Refusal :=
  finish (.cc a16) s (callIf .c a16 s)

/-- R204: call if Parity clear. -/
def execCpo (a16 : Word) (s : State) : Host.Outcome State Fault Refusal :=
  finish (.cpo a16) s (callIf .po a16 s)

/-- R204: call if Parity set. -/
def execCpe (a16 : Word) (s : State) : Host.Outcome State Fault Refusal :=
  finish (.cpe a16) s (callIf .pe a16 s)

/-- R204: call if Sign clear. -/
def execCp (a16 : Word) (s : State) : Host.Outcome State Fault Refusal :=
  finish (.cp a16) s (callIf .p a16 s)

/-- R204: call if Sign set. -/
def execCm (a16 : Word) (s : State) : Host.Outcome State Fault Refusal :=
  finish (.cm a16) s (callIf .m a16 s)

/-- R205: return. -/
def execRet (s : State) : Host.Outcome State Fault Refusal :=
  finish .ret s (returnFrom s)

/-- R206: return if Zero clear. -/
def execRnz (s : State) : Host.Outcome State Fault Refusal :=
  finish .rnz s (returnIf .nz s)

/-- R206: return if Zero set. -/
def execRz (s : State) : Host.Outcome State Fault Refusal :=
  finish .rz s (returnIf .z s)

/-- R206: return if Carry clear. -/
def execRnc (s : State) : Host.Outcome State Fault Refusal :=
  finish .rnc s (returnIf .nc s)

/-- R206: return if Carry set. -/
def execRc (s : State) : Host.Outcome State Fault Refusal :=
  finish .rc s (returnIf .c s)

/-- R206: return if Parity clear. -/
def execRpo (s : State) : Host.Outcome State Fault Refusal :=
  finish .rpo s (returnIf .po s)

/-- R206: return if Parity set. -/
def execRpe (s : State) : Host.Outcome State Fault Refusal :=
  finish .rpe s (returnIf .pe s)

/-- R206: return if Sign clear. -/
def execRp (s : State) : Host.Outcome State Fault Refusal :=
  finish .rp s (returnIf .p s)

/-- R206: return if Sign set. -/
def execRm (s : State) : Host.Outcome State Fault Refusal :=
  finish .rm s (returnIf .m s)

/-- R207: push `pc + 1` and transfer to `8 * n`; the interrupt enable is not changed. -/
def execRst (n : VecNum) (s : State) : Host.Outcome State Fault Refusal :=
  finish (.rst n) s (do
    let t ← s.push16 .write (s.pc + 1)
    return .redirect t (vectorAddress n))

/-- R208: `pc <- rp[HL]`. -/
def execPchl (s : State) : Host.Outcome State Fault Refusal :=
  finish .pchl s (.ok (.redirect s s.hl))

end Sys2Proof.Machine
end

