-- ==== Sys2Proof/Machine/Control.lean ====
section
/-! DEFINITION. Machine control (40_execution_loop.md R130, R131; 45_stack_io_control.md R230, R231) and the Unimplemented entry (60_exceptions.md R241). -/

namespace Sys2Proof.Machine

/-- R130: no operation. -/
def execNop (s : State) : Host.Outcome State Fault Refusal :=
  finish .nop s (.ok (.advance s))

/-- R131: `status <- Halted`; `pc` advances as for any other instruction. -/
def execHlt (s : State) : Host.Outcome State Fault Refusal :=
  finish .hlt s (.ok (.advance { s with status := .halted }))

/-- R230: `inte <- true`, effective at the next step. -/
def execEi (s : State) : Host.Outcome State Fault Refusal :=
  finish .ei s (.ok (.advance { s with inte := true }))

/-- R231: `inte <- false`; `pending` is not cleared. -/
def execDi (s : State) : Host.Outcome State Fault Refusal :=
  finish .di s (.ok (.advance { s with inte := false }))

/-- R241: the Unimplemented entry raises `UnimplementedOpcode(op, pc)`: nothing changes but `status` and `fault`. -/
def execUnimplemented (op : Byte) (s : State) : Host.Outcome State Fault Refusal :=
  .next (s.takeFault (.unimplementedOpcode s.pc op))

end Sys2Proof.Machine
end

