-- ==== Sys2Proof/Machine/Logic.lean ====
section
/-! DEFINITION. The logical, compare, rotate and carry instructions (43_logical.md R180 to R195). -/

namespace Sys2Proof.Machine

/-- R181: AND with A. -/
def execAna (src : R8) (s : State) : Host.Outcome State Fault Refusal :=
  finish (.ana src) s (do
    let v ← s.readR8 src
    return .advance (s.setAcc (and8 s.cfg.anaAc s.a v)))

/-- R182: AND immediate. -/
def execAni (d8 : Byte) (s : State) : Host.Outcome State Fault Refusal :=
  finish (.ani d8) s (.ok (.advance (s.setAcc (and8 s.cfg.anaAc s.a d8))))

/-- R183: exclusive OR with A. -/
def execXra (src : R8) (s : State) : Host.Outcome State Fault Refusal :=
  finish (.xra src) s (do
    let v ← s.readR8 src
    return .advance (s.setAcc (xor8 s.a v)))

/-- R184: exclusive OR immediate. -/
def execXri (d8 : Byte) (s : State) : Host.Outcome State Fault Refusal :=
  finish (.xri d8) s (.ok (.advance (s.setAcc (xor8 s.a d8))))

/-- R185: OR with A. -/
def execOra (src : R8) (s : State) : Host.Outcome State Fault Refusal :=
  finish (.ora src) s (do
    let v ← s.readR8 src
    return .advance (s.setAcc (or8 s.a v)))

/-- R186: OR immediate. -/
def execOri (d8 : Byte) (s : State) : Host.Outcome State Fault Refusal :=
  finish (.ori d8) s (.ok (.advance (s.setAcc (or8 s.a d8))))

/-- R187: compare with A; A is not written. -/
def execCmp (src : R8) (s : State) : Host.Outcome State Fault Refusal :=
  finish (.cmp src) s (do
    let v ← s.readR8 src
    return .advance (s.setCompare (sub8 s.a v false)))

/-- R188: compare immediate; A is not written. -/
def execCpi (d8 : Byte) (s : State) : Host.Outcome State Fault Refusal :=
  finish (.cpi d8) s (.ok (.advance (s.setCompare (sub8 s.a d8 false))))

/-- R189: rotate A left; Carry is the only flag written. -/
def execRlc (s : State) : Host.Outcome State Fault Refusal :=
  finish .rlc s (.ok (.advance (s.setRotate (rlc8 s.a))))

/-- R190: rotate A right; Carry is the only flag written. -/
def execRrc (s : State) : Host.Outcome State Fault Refusal :=
  finish .rrc s (.ok (.advance (s.setRotate (rrc8 s.a))))

/-- R191: rotate A left through Carry; Carry is the only flag written. -/
def execRal (s : State) : Host.Outcome State Fault Refusal :=
  finish .ral s (.ok (.advance (s.setRotate (ral8 s.a s.fl.cy))))

/-- R192: rotate A right through Carry; Carry is the only flag written. -/
def execRar (s : State) : Host.Outcome State Fault Refusal :=
  finish .rar s (.ok (.advance (s.setRotate (rar8 s.a s.fl.cy))))

/-- R193: `x[A] <- x[A] ^ 0xFF`; no flag. -/
def execCma (s : State) : Host.Outcome State Fault Refusal :=
  finish .cma s (.ok (.advance (s.setReg .a (s.a ^^^ 0xFF))))

/-- R194: Carry complemented. -/
def execCmc (s : State) : Host.Outcome State Fault Refusal :=
  finish .cmc s (.ok (.advance (s.setCarry (!s.fl.cy))))

/-- R195: Carry set. -/
def execStc (s : State) : Host.Outcome State Fault Refusal :=
  finish .stc s (.ok (.advance (s.setCarry true)))

end Sys2Proof.Machine
end

