-- ==== Sys2Proof/Machine/StackIo.lean ====
section
/-! DEFINITION. The stack and the input and output instructions (45_stack_io_control.md R220 to R229). -/

namespace Sys2Proof.Machine

/-- R222: push a register pair. -/
def execPush (p : Pair) (s : State) : Host.Outcome State Fault Refusal :=
  finish (.push p) s (do
    let t ← s.push16 .write (s.getPair p)
    return .advance t)

/-- R223: push A and the flag byte. -/
def execPushPsw (s : State) : Host.Outcome State Fault Refusal :=
  finish .pushPsw s (do
    let t ← s.push16 .write s.psw
    return .advance t)

/-- R224: pop a register pair. -/
def execPop (p : Pair) (s : State) : Host.Outcome State Fault Refusal :=
  finish (.pop p) s (do
    let r ← s.pop16
    return .advance (r.2.setPair p r.1))

/-- R225: pop A and the flags. -/
def execPopPsw (s : State) : Host.Outcome State Fault Refusal :=
  finish .popPsw s (do
    let r ← s.pop16
    return .advance (r.2.setPsw r.1))

/-- R226: HL exchanged with the word at SP; SP is unchanged. -/
def execXthl (s : State) : Host.Outcome State Fault Refusal :=
  finish .xthl s (do
    let v ← s.memRead2 .read s.sp.toNat
    let t ← s.memWrite2 .write s.sp.toNat s.hl
    return .advance (t.setPair .hl v))

/-- R227: `sp <- rp[HL]`. -/
def execSphl (s : State) : Host.Outcome State Fault Refusal :=
  finish .sphl s (.ok (.advance { s with sp := s.hl }))

/-- R228: `x[A] <- PortRead(port)`. -/
def execIn (port : Byte) (s : State) : Host.Outcome State Fault Refusal :=
  let r := s.portRead port
  finish (.inp port) s (.ok (.advance (r.2.setReg .a r.1)))

/-- R229: `PortWrite(port, x[A])`. -/
def execOut (port : Byte) (s : State) : Host.Outcome State Fault Refusal :=
  finish (.out port) s (.ok (.advance (s.portWrite port s.a)))

end Sys2Proof.Machine
end

