-- ==== Sys2Proof/Machine/Transfer.lean ====
section
/-! DEFINITION. The data transfer instructions (41_data_transfer.md R140 to R152). -/

namespace Sys2Proof.Machine

/-- R140: `x[ddd] <- x[sss]`. -/
def execMovRR (dst src : Reg) (s : State) : Host.Outcome State Fault Refusal :=
  finish (.movRR dst src) s (.ok (.advance (s.setReg dst (s.getReg src))))

/-- R141: `x[ddd] <- MemRead(rp[HL], 1)`; the address is formed before the register is written. -/
def execMovRM (dst : Reg) (s : State) : Host.Outcome State Fault Refusal :=
  finish (.movRM dst) s (do
    let v ← s.memRead1 .read s.hl.toNat
    return .advance (s.setReg dst v))

/-- R142: `MemWrite(rp[HL], 1, x[sss])`. -/
def execMovMR (src : Reg) (s : State) : Host.Outcome State Fault Refusal :=
  finish (.movMR src) s (do
    let t ← s.memWrite1 .write s.hl.toNat (s.getReg src)
    return .advance t)

/-- R143: `x[ddd] <- b2`. -/
def execMviR (dst : Reg) (d8 : Byte) (s : State) : Host.Outcome State Fault Refusal :=
  finish (.mviR dst d8) s (.ok (.advance (s.setReg dst d8)))

/-- R144: `MemWrite(rp[HL], 1, b2)`. -/
def execMviM (d8 : Byte) (s : State) : Host.Outcome State Fault Refusal :=
  finish (.mviM d8) s (do
    let t ← s.memWrite1 .write s.hl.toNat d8
    return .advance t)

/-- R145: `RP(pp) <- {b3, b2}`. -/
def execLxi (x : PairSP) (d16 : Word) (s : State) : Host.Outcome State Fault Refusal :=
  finish (.lxi x d16) s (.ok (.advance (s.setRP x d16)))

/-- R146: `x[A] <- MemRead(a16, 1)`. -/
def execLda (a16 : Word) (s : State) : Host.Outcome State Fault Refusal :=
  finish (.lda a16) s (do
    let v ← s.memRead1 .read a16.toNat
    return .advance (s.setReg .a v))

/-- R147: `MemWrite(a16, 1, x[A])`. -/
def execSta (a16 : Word) (s : State) : Host.Outcome State Fault Refusal :=
  finish (.sta a16) s (do
    let t ← s.memWrite1 .write a16.toNat s.a
    return .advance t)

/-- R148: `rp[HL] <- MemRead(a16, 2)`. -/
def execLhld (a16 : Word) (s : State) : Host.Outcome State Fault Refusal :=
  finish (.lhld a16) s (do
    let v ← s.memRead2 .read a16.toNat
    return .advance (s.setPair .hl v))

/-- R149: `MemWrite(a16, 2, rp[HL])`. -/
def execShld (a16 : Word) (s : State) : Host.Outcome State Fault Refusal :=
  finish (.shld a16) s (do
    let t ← s.memWrite2 .write a16.toNat s.hl
    return .advance t)

/-- R150: `x[A] <- MemRead(rp[BC or DE], 1)`. -/
def execLdax (p : PairBD) (s : State) : Host.Outcome State Fault Refusal :=
  finish (.ldax p) s (do
    let v ← s.memRead1 .read (s.getPair (pairOfBD p)).toNat
    return .advance (s.setReg .a v))

/-- R151: `MemWrite(rp[BC or DE], 1, x[A])`. -/
def execStax (p : PairBD) (s : State) : Host.Outcome State Fault Refusal :=
  finish (.stax p) s (do
    let t ← s.memWrite1 .write (s.getPair (pairOfBD p)).toNat s.a
    return .advance t)

/-- R152: HL and DE exchanged. -/
def execXchg (s : State) : Host.Outcome State Fault Refusal :=
  finish .xchg s (.ok (.advance ((s.setPair .hl (s.getPair .de)).setPair .de s.hl)))

end Sys2Proof.Machine
end

