-- ==== Sys2Proof/Machine/Fetch.lean ====
section
/-! DEFINITION. Fetching one instruction (40_execution_loop.md R123, R124) and storing one where it is fetched. -/

namespace Sys2Proof.Machine

/-- The operand bytes at the addresses after `x` (R124): untruncated, in address order, each range-checked. -/
def State.readOperands (s : State) (x : Nat) : Nat → Except AccessFault (List Byte)
  | 0 => .ok []
  | n + 1 => do
    let v ← s.memRead1 .operand x
    let vs ← s.readOperands (x + 1) n
    return v :: vs

/-- Phases S2 and S3 (R123, R124): the opcode byte at `pc`, its table entry, and all its operand bytes. An error is the fault
record of the fetch: opcode none for the opcode fetch itself, the opcode byte for an operand fetch (R244). The Unimplemented entry
has no operand byte to read. -/
def State.fetchInstr (s : State) : Except FaultRecord Instr :=
  match s.memRead1 .fetch s.pc.toNat with
  | .error f => .error (.addressOutOfRange s.pc none f.addr f.access)
  | .ok op =>
    match s.readOperands (s.pc.toNat + 1) (opcodeLength s.cfg.table op - 1) with
    | .error f => .error (.addressOutOfRange s.pc (some op) f.addr f.access)
    | .ok vs => .ok (lookup s.cfg.table op (vs.getD 0 0) (vs.getD 1 0))

/-- The state with bytes stored from an address on, those at or above `MEM_SIZE` left out. -/
def State.pokeAll (s : State) (x : Nat) (vs : List Byte) : State :=
  { s with mem := s.mem.writeAll x (vs.take (s.cfg.memSize - x)) }

end Sys2Proof.Machine
end

