-- ==== Sys2Proof/Machine/Step.lean ====
section
/-! DEFINITION. One step of the machine (40_execution_loop.md R120). -/

namespace Sys2Proof.Machine

/-- `step()` (R120), in the order of R250: the status test (R121), the interrupt check (R122, R249), fetch and decode (R123,
R124), execution (R125, R126). A raised fault is a next state (R243). -/
def step (s : State) : Host.Outcome State Fault Refusal :=
  match s.status with
  | .halted => .refused (.stepRefused .halted)
  | .faulted => .refused (.stepRefused .faulted)
  | .running =>
    match s.interruptDue with
    | some n => .next (s.interruptEntry n)
    | none =>
      match s.fetchInstr with
      | .error r => .next (s.takeFault r)
      | .ok i => exec i s

/-- The state with a table word stored at `pc`, where the next fetch reads it, and with what would keep the very next step from
fetching taken away: a terminal status (with its fault record), and a pending vector that would be taken. In a running state with no
interrupt due only memory changes (log entry 9). -/
def State.withFetchWord (s : State) (nbits w : Nat) : State :=
  { s.pokeAll s.pc.toNat (tableBytes nbits w) with
    status := .running
    fault := none
    pending := if s.inte then none else s.pending }

end Sys2Proof.Machine
end

