-- ==== Sys2Proof/Machine/HostOps.lean ====
section
/-! DEFINITION. The host interface (70_reset_and_hazards.md R270 to R276, R280; 20_memory.md R66; 40_execution_loop.md R128;
60_exceptions.md R247): what the host may do between steps. A refused operation is an error to the host and changes nothing. -/

namespace Sys2Proof.Machine

/-- The error results of the host interface (R240, last sentence; R270, R272, R275); `StepRefused` is `StepReturn.refused`. -/
inductive HostError where
  /-- `LoadOutOfRange` (R66). -/
  | loadOutOfRange
  /-- `InvalidVector` (R247). -/
  | invalidVector
  /-- `new` of a size outside 1 to 65536 (R270). -/
  | sizeRefused
  /-- `peek` or `poke` at or above `MEM_SIZE` (R275). -/
  | addressRefused
  /-- `restore` into a machine of other parameters (R272). -/
  | restoreRefused
  deriving DecidableEq, Repr

/-- R270: `new(memory_size)` for a table, an `ANA_AC` and the values that R50 leaves unspecified. -/
def hostNew (memSize : Nat) (table : Table) (anaAc : AnaAc) (r : ResetInput) : Except HostError State :=
  if 1 ≤ memSize ∧ memSize ≤ 65536 then
    .ok (State.create { memSize := memSize, table := table, anaAc := anaAc } r)
  else .error .sizeRefused

/-- R66: `load(bytes, base)`; an image that does not fit copies nothing. -/
def hostLoad (bytes : List Byte) (base : Nat) (s : State) : Except HostError State :=
  if s.cfg.memSize < base + bytes.length then .error .loadOutOfRange
  else .ok { s with mem := s.mem.writeAll base bytes }

/-- R247: `inject(n)`, accepted in any status; a second one replaces the first (R248). -/
def hostInject (n : Nat) (s : State) : Except HostError State :=
  if h : n < 8 then .ok { s with pending := some ⟨n, h⟩ } else .error .invalidVector

/-- R275: `peek(addr)`. -/
def hostPeek (x : Nat) (s : State) : Except HostError Byte :=
  if s.cfg.memSize ≤ x then .error .addressRefused else .ok (s.mem.read x)

/-- R275, R276: `poke(addr, byte)`. -/
def hostPoke (x : Nat) (v : Byte) (s : State) : Except HostError State :=
  if s.cfg.memSize ≤ x then .error .addressRefused else .ok { s with mem := s.mem.write x v }

/-- The names of the flag accessors (R275). -/
inductive FlagName where
  | z | s | p | cy | ac
  deriving DecidableEq, Repr

/-- R275: a flag read accessor. -/
def Flags.get (fl : Flags) : FlagName → Bool
  | .z => fl.z
  | .s => fl.s
  | .p => fl.p
  | .cy => fl.cy
  | .ac => fl.ac

/-- R275, R276: a flag write accessor. -/
def Flags.set (fl : Flags) (f : FlagName) (v : Bool) : Flags :=
  match f with
  | .z => { fl with z := v }
  | .s => { fl with s := v }
  | .p => { fl with p := v }
  | .cy => { fl with cy := v }
  | .ac => { fl with ac := v }

/-- R273: `snapshot()` copies the whole state and changes nothing. -/
def hostSnapshot (s : State) : State := s

/-- R272: `restore(snap)` replaces every component of the state tuple, in a machine of the same parameters. The record of port
transactions is the host's side of the interface, not a component of the tuple, and stays (log entry 10). -/
def hostRestore (snap s : State) : Except HostError State :=
  if snap.cfg = s.cfg then .ok { snap with portReads := s.portReads, portWrites := s.portWrites }
  else .error .restoreRefused

/-- What a call of `step()` returns (R126, R245): the cost and the status, or the refusal. -/
inductive StepReturn where
  | ran (cost : Nat) (status : Status)
  | refused (status : Status)
  deriving DecidableEq, Repr

/-- R120, R126, R245: `step()` as the host calls it. -/
def hostStep (s : State) : StepReturn × State :=
  match step s with
  | .next t => (.ran (t.cycles - s.cycles) t.status, t)
  | .fault _ => (.refused s.status, s)
  | .refused _ => (.refused s.status, s)

/-- R128: `run_until_halt()`, where the host's stop signal is observed after at most `n` steps. -/
def runUntilHalt : Nat → State → State
  | 0, s => s
  | n + 1, s => if s.status = .running then runUntilHalt n (hostStep s).2 else s

/-- One operation of the host on a machine (R275, R276). -/
inductive HostAction where
  | step
  | load (bytes : List Byte) (base : Nat)
  | inject (n : Nat)
  | poke (x : Nat) (v : Byte)
  | setReg (r : Reg) (v : Byte)
  | setPair (p : Pair) (v : Word)
  | setSp (v : Word)
  | setPc (v : Word)
  | setFlag (f : FlagName) (v : Bool)
  | restore (snap : State)
  deriving DecidableEq, Repr

/-- The state after a host call: unchanged where the call was refused. -/
def orUnchanged (s : State) : Except HostError State → State
  | .ok t => t
  | .error _ => s

/-- R276: the effect of one host operation. The read accessors, `peek` and `snapshot` change nothing and are left out. -/
def hostAct (s : State) : HostAction → State
  | .step => (hostStep s).2
  | .load bytes base => orUnchanged s (hostLoad bytes base s)
  | .inject n => orUnchanged s (hostInject n s)
  | .poke x v => orUnchanged s (hostPoke x v s)
  | .setReg r v => s.setReg r v
  | .setPair p v => s.setPair p v
  | .setSp v => { s with sp := v }
  | .setPc v => { s with pc := v }
  | .setFlag f v => { s with fl := s.fl.set f v }
  | .restore snap => orUnchanged s (hostRestore snap s)

/-- R276: any number of host operations, in order. -/
def hostRun (s : State) (acts : List HostAction) : State := acts.foldl hostAct s

end Sys2Proof.Machine
end

