-- ==== Sys2Proof/Safety.lean ====
section
/-! DEFINITION. The terms that claims use: what a legal state is, what a step does to the flow of instructions, and runs. -/

namespace Sys2Proof.Machine

/-- The fault record is one that R244 allows on a machine with these parameters: the opcode is one the table does not bind; or
the address is out of range and at most 0x10000, and the opcode is none exactly for a fetch or an interrupt entry. -/
def FaultRecord.wf (cfg : Config) : FaultRecord → Prop
  | .unimplementedOpcode _ op => lookup cfg.table op 0 0 = .unimplemented op
  | .addressOutOfRange _ op addr acc =>
    cfg.memSize ≤ addr ∧ addr ≤ 0x10000 ∧ (op = none ↔ acc = .fetch ∨ acc = .interrupt)

/-- A legal state of the machine: legal parameters (R270), memory in its canonical form with no cell outside the machine's
memory (R60), the fault record present exactly in the status Faulted (R32, R34), and of the form R244 gives. -/
structure State.Inv (s : State) : Prop where
  cfg_valid   : s.cfg.valid
  mem_wf      : Memory.wf s.mem
  mem_inRange : ∀ cell ∈ s.mem, cell.1 < s.cfg.memSize
  fault_iff   : s.fault.isSome ↔ s.status = .faulted
  fault_wf    : ∀ r, s.fault = some r → r.wf s.cfg

/-- The values given to `new` describe a memory of this size in canonical form. -/
def ResetInput.valid (cfg : Config) (r : ResetInput) : Prop :=
  Memory.wf r.mem ∧ ∀ cell ∈ r.mem, cell.1 < cfg.memSize

/-- The next step fetches the instruction `i` and runs it: the machine is Running, no interrupt is due (R122), and the bytes at
`pc` are the instruction's (R123, R124). -/
def State.runs (s : State) (i : Instr) : Prop :=
  s.status = .running ∧ s.interruptDue = none ∧ s.fetchInstr = .ok i

/-- The bytes stand in memory from an address on, each inside the memory. -/
def State.holdsBytes (s : State) (x : Nat) (bytes : List Byte) : Prop :=
  ∀ k, (hk : k < bytes.length) → x + k < s.cfg.memSize ∧ s.mem.read (x + k) = bytes[k]

/-- The address is in the machine's memory (R61). -/
abbrev State.inRange (s : State) (x : Nat) : Prop := x < s.cfg.memSize

/-- An 8-bit operand can be read and written: a register always, M where HL is in range (R94, R242). -/
abbrev State.r8Ok (s : State) (x : R8) : Prop := x = .m → s.inRange s.hl.toNat

/-- Both bytes of a push are in range (R220). -/
abbrev State.pushOk (s : State) : Prop := s.inRange (s.sp - 2).toNat ∧ s.inRange ((s.sp - 2).toNat + 1)

/-- Both bytes of a pop are in range (R221). -/
abbrev State.popOk (s : State) : Prop := s.inRange s.sp.toNat ∧ s.inRange (s.sp.toNat + 1)

/-- R244: the record that a faulting step leaves, read off the state `s` before it: `pc` is that of the step; the opcode is the
byte at `pc`, none for a fetch or an interrupt entry; the address is out of range and at most 0x10000; the access is `interrupt`
exactly when the step was an interrupt entry (R122), and a `fetch` is at `pc`. -/
def State.recordsFault (s : State) : FaultRecord → Prop
  | .unimplementedOpcode pc op =>
    s.interruptDue = none ∧ pc = s.pc ∧ op = s.mem.read s.pc.toNat ∧ descriptor s.cfg.table op = none
  | .addressOutOfRange pc op addr acc =>
    pc = s.pc ∧ (op = if acc = .fetch ∨ acc = .interrupt then none else some (s.mem.read s.pc.toNat)) ∧
    ¬ s.inRange addr ∧ addr ≤ 0x10000 ∧ (acc = .interrupt ↔ s.interruptDue ≠ none) ∧ (acc = .fetch → addr = s.pc.toNat)

/-! What a step leaves, for statements of results. -/

/-- The state with `pc` moved past an instruction of `len` bytes and its cost added (R125, R126). -/
def State.after (s : State) (len cost : Nat) : State :=
  { s with pc := s.pc + BitVec.ofNat 16 len, cycles := s.cycles + cost }

/-- The state with control transferred to `target` and the cost added (R125, R126). -/
def State.goto (s : State) (target : Word) (cost : Nat) : State :=
  { s with pc := target, cycles := s.cycles + cost }

/-- Seen through reads, memory went from that of `s` to that of `t` by storing one byte. -/
def State.storedByte (s t : State) (x : Nat) (v : Byte) : Prop :=
  t.mem.read x = v ∧ ∀ y, y ≠ x → t.mem.read y = s.mem.read y

/-- Seen through reads, memory went from that of `s` to that of `t` by storing a low byte at `x` and a high byte at `x + 1`
(R67). -/
def State.storedWord (s t : State) (x : Nat) (hi lo : Byte) : Prop :=
  t.mem.read x = lo ∧ t.mem.read (x + 1) = hi ∧ ∀ y, y ≠ x → y ≠ x + 1 → t.mem.read y = s.mem.read y

/-- The value of an 8-bit operand that can be read (R94). -/
def State.r8Value (s : State) : R8 → Byte
  | .reg r => s.getReg r
  | .m => s.mem.read s.hl.toNat

/-- The address that a 2-byte access at `x`, not wholly in range, faults on: the first of its two that is out of range (R64,
R65). -/
def State.wordFaultAddr (s : State) (x : Nat) : Nat := if s.inRange x then x + 1 else x

/-- The flags of an 8-bit result, computed without the model's flag unit: Zero, Sign and Parity from the number (R25, R26), Carry
and AuxCarry as given. -/
def refFlags (res : Nat) (cy ac : Bool) : Flags :=
  { z := decide (res = 0)
    s := decide (128 ≤ res)
    p := decide (((List.range 8).countP fun k => res.testBit k) % 2 = 0)
    cy := cy
    ac := ac }

/-- The state after an accumulator instruction with the result `res` (section 2 of 42_arithmetic.md). -/
def State.accResult (s : State) (res : Nat) (cy ac : Bool) (len cost : Nat) : State :=
  { s with a := BitVec.ofNat 8 res, fl := refFlags res cy ac }.after len cost

end Sys2Proof.Machine

/-! What each instruction may write: the tables that frame claims read. -/

namespace Sys2Proof

open Machine


/-- R28: the flags an instruction writes. -/
def Instr.flagsWritten : Instr → List FlagName
  | .add _ | .adc _ | .sub _ | .sbb _ | .cmp _ | .adi _ | .aci _ | .sui _ | .sbi _ | .cpi _ => [.z, .s, .p, .cy, .ac]
  | .ana _ | .ani _ | .xra _ | .xri _ | .ora _ | .ori _ => [.z, .s, .p, .cy, .ac]
  | .inr _ | .dcr _ => [.z, .s, .p, .ac]
  | .daa | .popPsw => [.z, .s, .p, .cy, .ac]
  | .dad _ | .rlc | .rrc | .ral | .rar | .stc | .cmc => [.cy]
  | .nop | .hlt | .movRR _ _ | .movRM _ | .movMR _ | .mviR _ _ | .mviM _ | .lxi _ _ | .lda _ | .sta _ | .lhld _
  | .shld _ | .ldax _ | .stax _ | .xchg | .inx _ | .dcx _ | .cma | .jmp _ | .jnz _ | .jz _ | .jnc _ | .jc _ | .jpo _
  | .jpe _ | .jp _ | .jm _ | .call _ | .cnz _ | .cz _ | .cnc _ | .cc _ | .cpo _ | .cpe _ | .cp _ | .cm _ | .ret | .rnz
  | .rz | .rnc | .rc | .rpo | .rpe | .rp | .rm | .rst _ | .pchl | .push _ | .pushPsw | .pop _ | .xthl | .sphl | .inp _
  | .out _ | .ei | .di | .unimplemented _ => []

/-- The two registers of a pair (R22). -/
def pairRegs (p : Pair) : List Reg := [pairHi p, pairLo p]

/-- The general registers of a 16-bit destination; SP is none of them (R95). -/
def rpRegs : PairSP → List Reg
  | .pair p => pairRegs p
  | .sp => []

/-- The general registers of an 8-bit destination; M is none of them (R94). -/
def r8Regs : R8 → List Reg
  | .reg r => [r]
  | .m => []

/-- The general registers an instruction writes (files 40 to 45). -/
def Instr.regsWritten : Instr → List Reg
  | .movRR dst _ | .movRM dst | .mviR dst _ => [dst]
  | .lxi x _ | .inx x | .dcx x => rpRegs x
  | .lda _ | .ldax _ | .add _ | .adi _ | .adc _ | .aci _ | .sub _ | .sui _ | .sbb _ | .sbi _ | .daa => [.a]
  | .ana _ | .ani _ | .xra _ | .xri _ | .ora _ | .ori _ | .rlc | .rrc | .ral | .rar | .cma | .inp _ | .popPsw => [.a]
  | .lhld _ | .dad _ | .xthl => [.h, .l]
  | .xchg => [.d, .e, .h, .l]
  | .inr dst | .dcr dst => r8Regs dst
  | .pop p => pairRegs p
  | .nop | .hlt | .movMR _ | .mviM _ | .sta _ | .shld _ | .stax _ | .cmp _ | .cpi _ | .cmc | .stc | .jmp _ | .jnz _
  | .jz _ | .jnc _ | .jc _ | .jpo _ | .jpe _ | .jp _ | .jm _ | .call _ | .cnz _ | .cz _ | .cnc _ | .cc _ | .cpo _
  | .cpe _ | .cp _ | .cm _ | .ret | .rnz | .rz | .rnc | .rc | .rpo | .rpe | .rp | .rm | .rst _ | .pchl | .push _
  | .pushPsw | .sphl | .out _ | .ei | .di | .unimplemented _ => []

/-- R23: the instructions that write SP. -/
def Instr.writesSp : Instr → Bool
  | .lxi x _ | .inx x | .dcx x => x == .sp
  | .sphl | .push _ | .pushPsw | .pop _ | .popPsw | .call _ | .ret | .rst _ => true
  | .cnz _ | .cz _ | .cnc _ | .cc _ | .cpo _ | .cpe _ | .cp _ | .cm _ => true
  | .rnz | .rz | .rnc | .rc | .rpo | .rpe | .rp | .rm => true
  | .nop | .hlt | .movRR _ _ | .movRM _ | .movMR _ | .mviR _ _ | .mviM _ | .lda _ | .sta _ | .lhld _ | .shld _ | .ldax _
  | .stax _ | .xchg | .add _ | .adi _ | .adc _ | .aci _ | .sub _ | .sui _ | .sbb _ | .sbi _ | .inr _ | .dcr _ | .daa
  | .dad _ | .ana _ | .ani _ | .xra _ | .xri _ | .ora _ | .ori _ | .cmp _ | .cpi _ | .rlc | .rrc | .ral | .rar | .cma
  | .cmc | .stc | .jmp _ | .jnz _ | .jz _ | .jnc _ | .jc _ | .jpo _ | .jpe _ | .jp _ | .jm _ | .pchl | .xthl | .inp _
  | .out _ | .ei | .di | .unimplemented _ => false

/-- R125, R200: whether an instruction, if it does not fault, writes `pc` itself when the flags are `fl`. -/
def Instr.transfers (fl : Flags) : Instr → Bool
  | .jmp _ | .call _ | .ret | .rst _ | .pchl => true
  | .jnz _ | .cnz _ | .rnz => !fl.z
  | .jz _ | .cz _ | .rz => fl.z
  | .jnc _ | .cnc _ | .rnc => !fl.cy
  | .jc _ | .cc _ | .rc => fl.cy
  | .jpo _ | .cpo _ | .rpo => !fl.p
  | .jpe _ | .cpe _ | .rpe => fl.p
  | .jp _ | .cp _ | .rp => !fl.s
  | .jm _ | .cm _ | .rm => fl.s
  | .nop | .hlt | .movRR _ _ | .movRM _ | .movMR _ | .mviR _ _ | .mviM _ | .lxi _ _ | .lda _ | .sta _ | .lhld _
  | .shld _ | .ldax _ | .stax _ | .xchg | .add _ | .adi _ | .adc _ | .aci _ | .sub _ | .sui _ | .sbb _ | .sbi _ | .inr _
  | .dcr _ | .inx _ | .dcx _ | .daa | .dad _ | .ana _ | .ani _ | .xra _ | .xri _ | .ora _ | .ori _ | .cmp _ | .cpi _
  | .rlc | .rrc | .ral | .rar | .cma | .cmc | .stc | .push _ | .pushPsw | .pop _ | .popPsw | .xthl | .sphl | .inp _
  | .out _ | .ei | .di | .unimplemented _ => false

/-- The address that writing an 8-bit operand stores to: HL for M, none for a register (R94). -/
def R8.storeAddrs (x : R8) (s : State) : List Nat :=
  match x with
  | .reg _ => []
  | .m => [s.hl.toNat]

/-- R69: the addresses an instruction stores to, computed from the state it runs on: HL, BC or DE, a direct address, or the two
bytes at SP or below it; a conditional call stores only when it is taken. -/
def Instr.storeAddrs (s : State) (i : Instr) : List Nat :=
  match i with
  | .movMR _ | .mviM _ => [s.hl.toNat]
  | .inr dst | .dcr dst => dst.storeAddrs s
  | .sta w => [w.toNat]
  | .shld w => [w.toNat, w.toNat + 1]
  | .stax p => [(s.getPair (pairOfBD p)).toNat]
  | .push _ | .pushPsw | .call _ | .rst _ => [(s.sp - 2).toNat, (s.sp - 2).toNat + 1]
  | .cnz _ | .cz _ | .cnc _ | .cc _ | .cpo _ | .cpe _ | .cp _ | .cm _ =>
    if i.transfers s.fl then [(s.sp - 2).toNat, (s.sp - 2).toNat + 1] else []
  | .xthl => [s.sp.toNat, s.sp.toNat + 1]
  | .nop | .hlt | .movRR _ _ | .movRM _ | .mviR _ _ | .lxi _ _ | .lda _ | .lhld _ | .ldax _ | .xchg | .add _ | .adi _
  | .adc _ | .aci _ | .sub _ | .sui _ | .sbb _ | .sbi _ | .inx _ | .dcx _ | .daa | .dad _ | .ana _ | .ani _ | .xra _
  | .xri _ | .ora _ | .ori _ | .cmp _ | .cpi _ | .rlc | .rrc | .ral | .rar | .cma | .cmc | .stc | .jmp _ | .jnz _
  | .jz _ | .jnc _ | .jc _ | .jpo _ | .jpe _ | .jp _ | .jm _ | .ret | .rnz | .rz | .rnc | .rc | .rpo | .rpe | .rp | .rm
  | .pchl | .pop _ | .popPsw | .sphl | .inp _ | .out _ | .ei | .di | .unimplemented _ => []

end Sys2Proof

namespace Sys2Proof.Machine

/-! Outcomes compared. -/

/-- The outcome with a function applied to its next state. -/
def mapNext (g : State → State) : Host.Outcome State Fault Refusal → Host.Outcome State Fault Refusal
  | .next t => .next (g t)
  | .fault r => .fault r
  | .refused r => .refused r

/-- Runs of the core alone: any number of steps, the host doing nothing else (R276, "a closed run"). -/
inductive Reaches : State → State → Prop where
  | refl (s : State) : Reaches s s
  | step {s t u : State} : Reaches s t → Machine.step t = .next u → Reaches s u

end Sys2Proof.Machine
end

