-- ==== Sys2Proof/Certificates/Slice0/Obligations.lean ====
section
/-! DEFINITION. The statements about the machine, each from the spec's numbered rules. -/

open Sys2Proof Sys2Proof.Machine

/-! Encoding (30_encoding.md). -/

/-- Decoding the encoding of an instruction of the table gives it back, whatever follows it (R91, R93, R100, R107).
The Unimplemented entry of a byte is encoded by that one byte, the model's choice (log entry 11). -/
def Obligations.DecodeOfEncode : Prop :=
  ∀ (tbl : Table) (i : Instr) (rest : List Byte),
    i.wf tbl = true → decode tbl (encode i ++ rest) = .ok (i, rest)

/-- Whatever decodes is the encoding of the decoded instruction, which is one of the table, followed by the rest
(of the Unimplemented entry, the one byte fetched: the model's choice, log entry 11). -/
def Obligations.EncodeOfDecode : Prop :=
  ∀ (tbl : Table) (bytes rest : List Byte) (i : Instr),
    decode tbl bytes = .ok (i, rest) → encode i ++ rest = bytes ∧ i.wf tbl = true

/-- R107, R101, R102: every opcode value yields an entry, whatever follows; it is the Unimplemented entry on exactly the twelve bytes of R101
under `T8080` and on every byte but the five of R108 under `TSRC`; the five are bound to the same instructions in both tables. -/
def Obligations.UnimplementedExactlyOnUnboundBytes : Prop :=
  ∀ op b2 b3 : Byte,
    (lookup .t8080 op b2 b3 = .unimplemented op
      ↔ op ∈ [0x08, 0x10, 0x18, 0x20, 0x28, 0x30, 0x38, 0xCB, 0xD9, 0xDD, 0xED, 0xFD]) ∧
    (lookup .tsrc op b2 b3 = .unimplemented op ↔ op ∉ [0x00, 0x01, 0x02, 0x05, 0x09]) ∧
    (op ∈ [0x00, 0x01, 0x02, 0x05, 0x09] → lookup .tsrc op b2 b3 = lookup .t8080 op b2 b3) ∧
    ∀ (tbl : Table) (rest : List Byte), ∃ i rest', decode tbl (op :: b2 :: b3 :: rest) = .ok (i, rest')

/-- R92: the length of a bound opcode of `T8080` is 3 for the opcodes the rule lists under 3, 2 for those it lists under 2, and 1
for every other; it is the number of bytes of the instruction (1 for the Unimplemented entry: the model's choice, log entry 11). -/
def Obligations.LengthsOfBoundOpcodes : Prop :=
  (∀ (op : Byte) (d : Descriptor), descriptor .t8080 op = some d →
    d.length =
      if op ∈ [0x01, 0x11, 0x21, 0x31, 0x22, 0x2A, 0x32, 0x3A, 0xC3, 0xCD, 0xC2, 0xCA, 0xD2, 0xDA, 0xE2, 0xEA, 0xF2, 0xFA,
        0xC4, 0xCC, 0xD4, 0xDC, 0xE4, 0xEC, 0xF4, 0xFC] then 3
      else if op ∈ [0x06, 0x0E, 0x16, 0x1E, 0x26, 0x2E, 0x36, 0x3E, 0xC6, 0xCE, 0xD6, 0xDE, 0xE6, 0xEE, 0xF6, 0xFE, 0xD3, 0xDB]
        then 2
      else 1) ∧
  ∀ i : Instr, (encode i).length = i.length

/-- Words written out from the encodings of R99 and R100 decode to the instructions they stand for, one or more of each family. -/
def Obligations.DecodeOfWrittenWords : Prop :=
  decode .t8080 [0b00000001, 0x34, 0x12] = .ok (.lxi (.pair .bc) 0x1234, []) ∧
  decode .t8080 [0b01000001] = .ok (.movRR .b .c, []) ∧
  decode .t8080 [0b01110100] = .ok (.movMR .h, []) ∧
  decode .t8080 [0b01110110] = .ok (.hlt, []) ∧
  decode .t8080 [0b00011010] = .ok (.ldax .de, []) ∧
  decode .t8080 [0b10001110] = .ok (.adc .m, []) ∧
  decode .t8080 [0b00110101] = .ok (.dcr .m, []) ∧
  decode .t8080 [0b00111001] = .ok (.dad .sp, []) ∧
  decode .t8080 [0b11100110, 0x0F] = .ok (.ani 0x0F, []) ∧
  decode .t8080 [0b11101010, 0x34, 0x12] = .ok (.jpe 0x1234, []) ∧
  decode .t8080 [0b11010100, 0x00, 0x20] = .ok (.cnc 0x2000, []) ∧
  decode .t8080 [0b11011111] = .ok (.rst 3, []) ∧
  decode .t8080 [0b11110101] = .ok (.pushPsw, []) ∧
  decode .t8080 [0b11011011, 0x10] = .ok (.inp 0x10, []) ∧
  decode .t8080 [0b11001011] = .ok (.unimplemented 0xCB, [])

/-! The step (40_execution_loop.md, 60_exceptions.md). -/

/-- When the bytes at `pc` are in memory and decode to an instruction, a Running machine with no interrupt due runs it: the step
is `exec` of it at that state. -/
def Obligations.StepRunsDecodedInstruction : Prop :=
  ∀ (s : State) (bytes : List Byte) (i : Instr),
    s.status = .running → s.interruptDue = none →
    s.holdsBytes s.pc.toNat bytes → decode s.cfg.table bytes = .ok (i, []) →
    step s = exec i s

/-- R121, R127, R129, R245: in Halted and Faulted the step is refused, whatever else the state holds; in Running it answers a next
state, whatever else the state holds; it never ends the run by a fault of the model. -/
def Obligations.StepByStatus : Prop :=
  ∀ s : State,
    (s.status = .halted ∨ s.status = .faulted → step s = .refused (.stepRefused s.status)) ∧
    (s.status = .running → ∃ t, step s = .next t) ∧
    ∀ f, step s ≠ .fault f

/-- R129: a step leaves the status Halted exactly when it fetches and runs HLT. -/
def Obligations.HaltedExactlyByHlt : Prop :=
  ∀ s t : State, step s = .next t → (t.status = .halted ↔ s.runs .hlt)

/-- R122, R249, R250: with interrupts enabled and a vector pending, the step is the interrupt entry and nothing else, whatever
stands at `pc`: the address of the displaced instruction is pushed, low byte lower, `pc` is `8 * n`, the enable and the pending
vector are cleared, 11 cycles; a push out of range raises AddressOutOfRange and leaves the vector pending. -/
def Obligations.InterruptEntryStep : Prop :=
  ∀ (s : State) (n : VecNum), s.status = .running → s.inte = true → s.pending = some n →
    (s.pushOk → ∃ t, step s = .next t ∧
      t = { s with
        sp := s.sp - 2, pc := BitVec.ofNat 16 (8 * n.val), inte := false, pending := none, cycles := s.cycles + 11
        mem := t.mem } ∧
      s.storedWord t (s.sp - 2).toNat (hiByte s.pc) (loByte s.pc)) ∧
    (¬ s.pushOk → step s = .next { s with
      status := .faulted
      fault := some (.addressOutOfRange s.pc none (s.wordFaultAddr (s.sp - 2).toNat) .interrupt) })

/-- R122, R248: while the enable is false a pending vector waits: it changes nothing that the step does and is still pending
after it. -/
def Obligations.PendingVectorWaitsWhileDisabled : Prop :=
  ∀ (s : State) (v : Option VecNum), s.inte = false →
    step { s with pending := v } = mapNext (fun t => { t with pending := v }) (step s)

/-- R123, R124, R250: with no interrupt due, an opcode fetch out of range raises AddressOutOfRange with access fetch and no opcode;
then an operand byte out of range raises it with access operand and the opcode, for the first operand address out of range; and all
operand bytes of the declared length are examined. -/
def Obligations.FetchFaults : Prop :=
  ∀ s : State, s.status = .running → s.interruptDue = none →
    let op := s.mem.read s.pc.toNat
    let len := opcodeLength s.cfg.table op
    (¬ s.inRange s.pc.toNat → step s = .next { s with
      status := .faulted, fault := some (.addressOutOfRange s.pc none s.pc.toNat .fetch) }) ∧
    (s.inRange s.pc.toNat → 2 ≤ len → ¬ s.inRange (s.pc.toNat + 1) → step s = .next { s with
      status := .faulted, fault := some (.addressOutOfRange s.pc (some op) (s.pc.toNat + 1) .operand) }) ∧
    (s.inRange (s.pc.toNat + 1) → len = 3 → ¬ s.inRange (s.pc.toNat + 2) → step s = .next { s with
      status := .faulted, fault := some (.addressOutOfRange s.pc (some op) (s.pc.toNat + 2) .operand) })

/-- R241: fetching a byte that the table does not bind raises UnimplementedOpcode: `status` and `fault` are written and nothing
else, even where no operand byte could follow; that is the meaning of the Unimplemented entry in every state, run by itself (log entry 7). -/
def Obligations.UnimplementedOpcodeFaults : Prop :=
  (∀ s : State, s.status = .running → s.interruptDue = none → s.inRange s.pc.toNat →
    descriptor s.cfg.table (s.mem.read s.pc.toNat) = none →
    step s = .next { s with
      status := .faulted, fault := some (.unimplementedOpcode s.pc (s.mem.read s.pc.toNat)) }) ∧
  ∀ (s : State) (op : Byte),
    exec (.unimplemented op) s = .next { s with status := .faulted, fault := some (.unimplementedOpcode s.pc op) }

/-- R243, R244: a step that raises a fault changes nothing but `status` and `fault`, in every state and for every instruction and the
interrupt entry; on a machine of a legal size (R270) the record is one that R244 allows for this step. -/
def Obligations.FaultsArePrecise : Prop :=
  ∀ s t : State, step s = .next t → t.status = .faulted →
    ∃ r : FaultRecord, t = { s with status := .faulted, fault := some r } ∧ (s.cfg.valid → s.recordsFault r)

/-! Invariants. -/

/-- Every step keeps a legal state legal. -/
def Obligations.StepKeepsLegalState : Prop :=
  ∀ s t : State, s.Inv → step s = .next t → t.Inv

/-- A machine that `new` constructs is in a legal state, whatever the values that R50 leaves unspecified; so is the state after
reset, whose values there are the model's choice (log entries 1 and 3). -/
def Obligations.ConstructedStateIsLegal : Prop :=
  (∀ (cfg : Config) (r : ResetInput), cfg.valid → r.valid cfg → (State.create cfg r).Inv) ∧
  State.reset.Inv ∧ Sys2Proof.core.reset = State.reset

/-- R276: under any host, that is any sequence of steps and host operations, a legal state stays legal, if the snapshots that are
restored are legal states. -/
def Obligations.HostKeepsLegalState : Prop :=
  ∀ (acts : List HostAction) (s : State), s.Inv →
    (∀ snap, HostAction.restore snap ∈ acts → snap.Inv) → (hostRun s acts).Inv

/-- R30, R31, R270: the parameters never change; among the instructions only EI and DI write the interrupt enable, and none writes
the pending vector. -/
def Obligations.ControlStateWriters : Prop :=
  (∀ s t : State, step s = .next t → t.cfg = s.cfg) ∧
  ∀ (i : Instr) (s t : State), exec i s = .next t →
    t.pending = s.pending ∧ (i ≠ .ei → i ≠ .di → t.inte = s.inte)

/-! Frames over all instructions. -/

/-- R24, R28: a flag that R28 does not list for an instruction is unchanged by it. -/
def Obligations.FlagsNotListedUnchanged : Prop :=
  ∀ (i : Instr) (s t : State) (f : FlagName), exec i s = .next t → f ∉ i.flagsWritten → t.fl.get f = s.fl.get f

/-- An instruction changes no general register but its destinations, SP only if R23 lists it, and the model's own fields only if it is
IN (`portReads`, log entry 2) or OUT (`portWrites`, log entry 5). -/
def Obligations.RegistersNotWrittenUnchanged : Prop :=
  ∀ (i : Instr) (s t : State), exec i s = .next t →
    (∀ r, r ∉ i.regsWritten → t.getReg r = s.getReg r) ∧
    (i.writesSp = false → t.sp = s.sp) ∧
    ((∀ p, i ≠ .inp p) → t.portReads = s.portReads) ∧
    ((∀ p, i ≠ .out p) → t.portWrites = s.portWrites)

/-- R69: every byte of memory outside the bytes an instruction stores to reads as before; an instruction that stores nothing
leaves memory as it was. -/
def Obligations.MemoryOutsideStoreUnchanged : Prop :=
  ∀ (i : Instr) (s t : State), exec i s = .next t →
    (∀ x, x ∉ i.storeAddrs s → t.mem.read x = s.mem.read x) ∧
    (i.storeAddrs s = [] → t.mem = s.mem)

/-- R36, R125, R126: an instruction that completes and transfers no control advances `pc` by its length, mod 65536, at its base
cost; one that transfers control adds the taken cost; a faulting one leaves `pc` and `cycles`. -/
def Obligations.CentralAdvanceAndCost : Prop :=
  ∀ (i : Instr) (s t : State), s.status = .running → exec i s = .next t →
    (t.status = .faulted → t.pc = s.pc ∧ t.cycles = s.cycles) ∧
    (t.status ≠ .faulted → i.transfers s.fl = false →
      t.pc.toNat = (s.pc.toNat + i.length) % 65536 ∧ t.cycles = s.cycles + i.cost) ∧
    (t.status ≠ .faulted → i.transfers s.fl = true → t.cycles = s.cycles + i.costTaken)

/-- R33, R279: nothing the machine does depends on the cycle total. -/
def Obligations.CycleTotalIsNotRead : Prop :=
  ∀ (s : State) (n : Nat),
    step { s with cycles := s.cycles + n } = mapNext (fun t => { t with cycles := t.cycles + n }) (step s)

/-! Data transfer (41_data_transfer.md). No flag is in any of these next states but the old ones (R24). -/

/-- R140, R141, R142: the three forms of MOV. -/
def Obligations.MovResult : Prop :=
  ∀ (s : State) (dst src : Reg),
    (encode (.movRR dst src) = [0b01#2 ++ dst.code ++ src.code] ∧
      exec (.movRR dst src) s = .next ((s.setReg dst (s.getReg src)).after 1 5)) ∧
    (encode (.movRM dst) = [0b01#2 ++ dst.code ++ 0b110#3] ∧
      (s.inRange s.hl.toNat → exec (.movRM dst) s = .next ((s.setReg dst (s.mem.read s.hl.toNat)).after 1 7)) ∧
      (¬ s.inRange s.hl.toNat → exec (.movRM dst) s = .next (s.takeFault
        (.addressOutOfRange s.pc (some (0b01#2 ++ dst.code ++ 0b110#3)) s.hl.toNat .read)))) ∧
    (encode (.movMR src) = [0b01#2 ++ 0b110#3 ++ src.code] ∧
      (s.inRange s.hl.toNat → ∃ t, exec (.movMR src) s = .next t ∧ t = { s.after 1 7 with mem := t.mem } ∧
        s.storedByte t s.hl.toNat (s.getReg src)) ∧
      (¬ s.inRange s.hl.toNat → exec (.movMR src) s = .next (s.takeFault
        (.addressOutOfRange s.pc (some (0b01#2 ++ 0b110#3 ++ src.code)) s.hl.toNat .write))))

/-- R143, R144: MVI to a register and to memory. -/
def Obligations.MviResult : Prop :=
  ∀ (s : State) (dst : Reg) (d8 : Byte),
    (encode (.mviR dst d8) = [0b00#2 ++ dst.code ++ 0b110#3, d8] ∧
      exec (.mviR dst d8) s = .next ((s.setReg dst d8).after 2 7)) ∧
    (encode (.mviM d8) = [0x36, d8] ∧
      (s.inRange s.hl.toNat → ∃ t, exec (.mviM d8) s = .next t ∧ t = { s.after 2 10 with mem := t.mem } ∧
        s.storedByte t s.hl.toNat d8) ∧
      (¬ s.inRange s.hl.toNat → exec (.mviM d8) s = .next (s.takeFault
        (.addressOutOfRange s.pc (some 0x36) s.hl.toNat .write))))

/-- R145: LXI: the low register, or the low half of SP, from the second byte, the high one from the third. -/
def Obligations.LxiResult : Prop :=
  ∀ (s : State) (b2 b3 : Byte),
    (encode (.lxi (.pair .bc) (b3 ++ b2)) = [0x01, b2, b3] ∧
      exec (.lxi (.pair .bc) (b3 ++ b2)) s = .next ({ s with b := b3, c := b2 }.after 3 10)) ∧
    (encode (.lxi (.pair .de) (b3 ++ b2)) = [0x11, b2, b3] ∧
      exec (.lxi (.pair .de) (b3 ++ b2)) s = .next ({ s with d := b3, e := b2 }.after 3 10)) ∧
    (encode (.lxi (.pair .hl) (b3 ++ b2)) = [0x21, b2, b3] ∧
      exec (.lxi (.pair .hl) (b3 ++ b2)) s = .next ({ s with h := b3, l := b2 }.after 3 10)) ∧
    (encode (.lxi .sp (b3 ++ b2)) = [0x31, b2, b3] ∧
      exec (.lxi .sp (b3 ++ b2)) s = .next ({ s with sp := b3 ++ b2 }.after 3 10))

/-- R146, R147: LDA and STA. -/
def Obligations.LdaStaResult : Prop :=
  ∀ (s : State) (w : Word),
    (encode (.lda w) = [0x3A, loByte w, hiByte w] ∧
      (s.inRange w.toNat → exec (.lda w) s = .next ({ s with a := s.mem.read w.toNat }.after 3 13)) ∧
      (¬ s.inRange w.toNat → exec (.lda w) s = .next (s.takeFault
        (.addressOutOfRange s.pc (some 0x3A) w.toNat .read)))) ∧
    (encode (.sta w) = [0x32, loByte w, hiByte w] ∧
      (s.inRange w.toNat → ∃ t, exec (.sta w) s = .next t ∧ t = { s.after 3 13 with mem := t.mem } ∧
        s.storedByte t w.toNat s.a) ∧
      (¬ s.inRange w.toNat → exec (.sta w) s = .next (s.takeFault
        (.addressOutOfRange s.pc (some 0x32) w.toNat .write))))

/-- R148, R149: LHLD and SHLD: L with the byte at the address, H with the one after it; no wrap at the top, where the access faults
and writes nothing (R64, R65, R72). -/
def Obligations.LhldShldResult : Prop :=
  ∀ (s : State) (w : Word),
    (encode (.lhld w) = [0x2A, loByte w, hiByte w] ∧
      (s.inRange w.toNat ∧ s.inRange (w.toNat + 1) →
        exec (.lhld w) s = .next ({ s with l := s.mem.read w.toNat, h := s.mem.read (w.toNat + 1) }.after 3 16)) ∧
      (¬ (s.inRange w.toNat ∧ s.inRange (w.toNat + 1)) → exec (.lhld w) s = .next (s.takeFault
        (.addressOutOfRange s.pc (some 0x2A) (s.wordFaultAddr w.toNat) .read)))) ∧
    (encode (.shld w) = [0x22, loByte w, hiByte w] ∧
      (s.inRange w.toNat ∧ s.inRange (w.toNat + 1) → ∃ t, exec (.shld w) s = .next t ∧
        t = { s.after 3 16 with mem := t.mem } ∧ s.storedWord t w.toNat s.h s.l) ∧
      (¬ (s.inRange w.toNat ∧ s.inRange (w.toNat + 1)) → exec (.shld w) s = .next (s.takeFault
        (.addressOutOfRange s.pc (some 0x22) (s.wordFaultAddr w.toNat) .write))))

/-- R150, R151: LDAX and STAX through BC (bit 4 of the opcode 0) and through DE (1). -/
def Obligations.LdaxStaxResult : Prop :=
  ∀ (s : State) (p : PairBD),
    let x := match p with
      | .bc => (s.b ++ s.c : Word).toNat
      | .de => (s.d ++ s.e : Word).toNat
    let load : Byte := match p with
      | .bc => 0x0A
      | .de => 0x1A
    let store : Byte := match p with
      | .bc => 0x02
      | .de => 0x12
    (encode (.ldax p) = [load] ∧
      (s.inRange x → exec (.ldax p) s = .next ({ s with a := s.mem.read x }.after 1 7)) ∧
      (¬ s.inRange x → exec (.ldax p) s = .next (s.takeFault (.addressOutOfRange s.pc (some load) x .read)))) ∧
    (encode (.stax p) = [store] ∧
      (s.inRange x → ∃ t, exec (.stax p) s = .next t ∧ t = { s.after 1 7 with mem := t.mem } ∧ s.storedByte t x s.a) ∧
      (¬ s.inRange x → exec (.stax p) s = .next (s.takeFault (.addressOutOfRange s.pc (some store) x .write))))

/-- R152, R227, R208: XCHG exchanges H with D and L with E; SPHL copies HL to SP; PCHL transfers to the address in HL. -/
def Obligations.XchgSphlPchlResult : Prop :=
  ∀ s : State,
    (encode .xchg = [0xEB] ∧ exec .xchg s = .next ({ s with d := s.h, e := s.l, h := s.d, l := s.e }.after 1 4)) ∧
    (encode .sphl = [0xF9] ∧ exec .sphl s = .next ({ s with sp := s.h ++ s.l }.after 1 5)) ∧
    (encode .pchl = [0xE9] ∧ exec .pchl s = .next (s.goto (s.h ++ s.l) 5))

/-! Arithmetic (42_arithmetic.md), against sums of natural numbers and `refFlags`. -/

/-- R160, R162, R163, R164, R165: ADD, ADI, ADC and ACI: the sum mod 256 to A, Carry when the sum exceeds 255, AuxCarry when the
low nibbles and the carry-in exceed 15. -/
def Obligations.AddResult : Prop :=
  ∀ (s : State) (src : R8) (d8 : Byte),
    let a := s.a.toNat
    let v := (s.r8Value src).toNat
    let d := d8.toNat
    let c := s.fl.cy.toNat
    encode (.add src) = [0b10000#5 ++ src.code] ∧ encode (.adc src) = [0b10001#5 ++ src.code] ∧
    encode (.adi d8) = [0xC6, d8] ∧ encode (.aci d8) = [0xCE, d8] ∧
    (s.r8Ok src →
      exec (.add src) s = .next (s.accResult ((a + v) % 256) (255 < a + v) (15 < a % 16 + v % 16) 1 (src.cost 4 7)) ∧
      exec (.adc src) s =
        .next (s.accResult ((a + v + c) % 256) (255 < a + v + c) (15 < a % 16 + v % 16 + c) 1 (src.cost 4 7))) ∧
    exec (.adi d8) s = .next (s.accResult ((a + d) % 256) (255 < a + d) (15 < a % 16 + d % 16) 2 7) ∧
    exec (.aci d8) s = .next (s.accResult ((a + d + c) % 256) (255 < a + d + c) (15 < a % 16 + d % 16 + c) 2 7)

/-- R161, R166, R167, R168, R169: SUB, SUI, SBB and SBI: the difference mod 256 to A, Carry when a borrow occurred, AuxCarry when the
low nibble needed none. -/
def Obligations.SubtractResult : Prop :=
  ∀ (s : State) (src : R8) (d8 : Byte),
    let a := s.a.toNat
    let v := (s.r8Value src).toNat
    let d := d8.toNat
    let c := s.fl.cy.toNat
    encode (.sub src) = [0b10010#5 ++ src.code] ∧ encode (.sbb src) = [0b10011#5 ++ src.code] ∧
    encode (.sui d8) = [0xD6, d8] ∧ encode (.sbi d8) = [0xDE, d8] ∧
    (s.r8Ok src →
      exec (.sub src) s = .next (s.accResult ((a + 256 - v) % 256) (a < v) (v % 16 ≤ a % 16) 1 (src.cost 4 7)) ∧
      exec (.sbb src) s =
        .next (s.accResult ((a + 256 - v - c) % 256) (a < v + c) (v % 16 + c ≤ a % 16) 1 (src.cost 4 7))) ∧
    exec (.sui d8) s = .next (s.accResult ((a + 256 - d) % 256) (a < d) (d % 16 ≤ a % 16) 2 7) ∧
    exec (.sbi d8) s = .next (s.accResult ((a + 256 - d - c) % 256) (a < d + c) (d % 16 + c ≤ a % 16) 2 7)

/-- R187, R188: CMP and CPI write the flags of the subtraction and leave A: Zero exactly when A equals the operand, Carry exactly
when A is below it as an unsigned number. -/
def Obligations.CompareResult : Prop :=
  ∀ (s : State) (src : R8) (d8 : Byte),
    let flags (v : Nat) : Flags :=
      { refFlags ((s.a.toNat + 256 - v) % 256) (s.a.toNat < v) (v % 16 ≤ s.a.toNat % 16) with z := decide (s.a.toNat = v) }
    encode (.cmp src) = [0b10111#5 ++ src.code] ∧ encode (.cpi d8) = [0xFE, d8] ∧
    (s.r8Ok src → exec (.cmp src) s = .next ({ s with fl := flags (s.r8Value src).toNat }.after 1 (src.cost 4 7))) ∧
    exec (.cpi d8) s = .next ({ s with fl := flags d8.toNat }.after 2 7)

/-- R180, R181 to R186: the logical operations: Carry cleared; AuxCarry cleared but by ANA and ANI under `OR_BIT3`, where it is bit
3 of the OR of the operands. -/
def Obligations.LogicResult : Prop :=
  ∀ (s : State) (src : R8) (d8 : Byte),
    let v := s.r8Value src
    let ac (x : Byte) : Bool := (s.cfg.anaAc == .orBit3) && (s.a.getLsbD 3 || x.getLsbD 3)
    encode (.ana src) = [0b10100#5 ++ src.code] ∧ encode (.xra src) = [0b10101#5 ++ src.code] ∧
    encode (.ora src) = [0b10110#5 ++ src.code] ∧ encode (.ani d8) = [0xE6, d8] ∧ encode (.xri d8) = [0xEE, d8] ∧
    encode (.ori d8) = [0xF6, d8] ∧
    (s.r8Ok src →
      exec (.ana src) s = .next (s.accResult (s.a &&& v).toNat false (ac v) 1 (src.cost 4 7)) ∧
      exec (.xra src) s = .next (s.accResult (s.a ^^^ v).toNat false false 1 (src.cost 4 7)) ∧
      exec (.ora src) s = .next (s.accResult (s.a ||| v).toNat false false 1 (src.cost 4 7))) ∧
    exec (.ani d8) s = .next (s.accResult (s.a &&& d8).toNat false (ac d8) 2 7) ∧
    exec (.xri d8) s = .next (s.accResult (s.a ^^^ d8).toNat false false 2 7) ∧
    exec (.ori d8) s = .next (s.accResult (s.a ||| d8).toNat false false 2 7)

/-- R242: every instruction that reads its operand M faults on a read at HL out of range and changes nothing else: MOV r,M, the
accumulator instructions with M, INR M and DCR M. -/
def Obligations.MemoryOperandFaults : Prop :=
  ∀ (s : State) (dst : Reg), ¬ s.inRange s.hl.toNat →
    ∀ i ∈ [((0b01#2 ++ dst.code ++ 0b110#3 : Byte), Instr.movRM dst), (0x86, .add .m), (0x8E, .adc .m), (0x96, .sub .m), (0x9E, .sbb .m), (0xA6, .ana .m), (0xAE, .xra .m),
        (0xB6, .ora .m), (0xBE, .cmp .m), (0x34, .inr .m), (0x35, .dcr .m)],
      exec i.2 s = .next { s with
        status := .faulted, fault := some (.addressOutOfRange s.pc (some i.1) s.hl.toNat .read) }

/-- R170, R171: INR and DCR: the operand plus or minus one mod 256, Zero, Sign, Parity and AuxCarry from the operation, Carry
unchanged; on M the byte at HL is read and written, and out of range the read faults and nothing else changes. -/
def Obligations.IncrementDecrementResult : Prop :=
  ∀ (s : State) (r : Reg),
    let v := (s.getReg r).toNat
    let m := (s.mem.read s.hl.toNat).toNat
    let inrFlags (n : Nat) := refFlags ((n + 1) % 256) s.fl.cy (n % 16 = 15)
    let dcrFlags (n : Nat) := refFlags ((n + 255) % 256) s.fl.cy (n % 16 ≠ 0)
    encode (.inr (.reg r)) = [0b00#2 ++ r.code ++ 0b100#3] ∧ encode (.inr .m) = [0x34] ∧
    encode (.dcr (.reg r)) = [0b00#2 ++ r.code ++ 0b101#3] ∧ encode (.dcr .m) = [0x35] ∧
    exec (.inr (.reg r)) s = .next ({ s.setReg r (BitVec.ofNat 8 (v + 1)) with fl := inrFlags v }.after 1 5) ∧
    exec (.dcr (.reg r)) s = .next ({ s.setReg r (BitVec.ofNat 8 (v + 255)) with fl := dcrFlags v }.after 1 5) ∧
    (s.inRange s.hl.toNat →
      (∃ t, exec (.inr .m) s = .next t ∧ t = { s.after 1 10 with fl := inrFlags m, mem := t.mem } ∧
        s.storedByte t s.hl.toNat (BitVec.ofNat 8 (m + 1))) ∧
      (∃ t, exec (.dcr .m) s = .next t ∧ t = { s.after 1 10 with fl := dcrFlags m, mem := t.mem } ∧
        s.storedByte t s.hl.toNat (BitVec.ofNat 8 (m + 255)))) ∧
    (¬ s.inRange s.hl.toNat →
      exec (.inr .m) s = .next (s.takeFault (.addressOutOfRange s.pc (some 0x34) s.hl.toNat .read)) ∧
      exec (.dcr .m) s = .next (s.takeFault (.addressOutOfRange s.pc (some 0x35) s.hl.toNat .read)))

/-- R172, R173: INX and DCX: the 16-bit operand plus or minus one mod 65536, and no flag. -/
def Obligations.InxDcxResult : Prop :=
  ∀ s : State, ∀ p : PairSP, ∃ t u : State,
    encode (.inx p) = [0b00#2 ++ p.code ++ 0b0011#4] ∧ encode (.dcx p) = [0b00#2 ++ p.code ++ 0b1011#4] ∧
    exec (.inx p) s = .next t ∧ exec (.dcx p) s = .next u ∧
    (t.getRP p).toNat = ((s.getRP p).toNat + 1) % 65536 ∧ (u.getRP p).toNat = ((s.getRP p).toNat + 65535) % 65536 ∧
    t = (s.setRP p (t.getRP p)).after 1 5 ∧ u = (s.setRP p (u.getRP p)).after 1 5

/-- R175: DAD: HL plus the operand mod 65536, the high byte to H and the low byte to L; Carry from bit 16 of the sum, no other
flag. -/
def Obligations.DadResult : Prop :=
  ∀ (s : State) (p : PairSP),
    let sum := (s.h ++ s.l : Word).toNat + (s.getRP p).toNat
    encode (.dad p) = [0b00#2 ++ p.code ++ 0b1001#4] ∧
    exec (.dad p) s = .next ({ s with
      h := BitVec.ofNat 8 (sum / 256), l := BitVec.ofNat 8 sum, fl := { s.fl with cy := decide (65535 < sum) } }.after 1 10)

/-- R174: DAA: 6 is added when AuxCarry is set or the low nibble exceeds 9, and 96 when Carry is set or A with the low correction
exceeds 9 in the high digit; Carry is set by the high correction and never cleared. -/
def Obligations.DaaResult : Prop :=
  ∀ s : State,
    let a := s.a.toNat
    let low := s.fl.ac || decide (9 < a % 16)
    let high := s.fl.cy || decide (9 < a / 16) || (decide (9 ≤ a / 16) && decide (9 < a % 16))
    let corr := (if low then 6 else 0) + (if high then 96 else 0)
    encode .daa = [0x27] ∧
    exec .daa s = .next (s.accResult ((a + corr) % 256) high (15 < a % 16 + corr % 16) 1 4)

/-- R174: "It corrects A after an addition of two packed binary-coded-decimal bytes": after ADD of the packed BCD bytes of x and y,
both below 100, DAA leaves the packed BCD of `(x + y) % 100` in A, and Carry is set exactly when the decimal sum
exceeds 99. -/
def Obligations.DaaCorrectsDecimalSum : Prop :=
  ∀ (s t u : State) (x y : Nat) (src : R8), x < 100 → y < 100 → s.r8Ok src →
    s.a.toNat = x / 10 * 16 + x % 10 → (s.r8Value src).toNat = y / 10 * 16 + y % 10 →
    exec (.add src) s = .next t → exec .daa t = .next u →
    u.a.toNat = (x + y) % 100 / 10 * 16 + (x + y) % 100 % 10 ∧ (u.fl.cy = true ↔ 99 < x + y)

/-! Rotates and carry (43_logical.md). -/

/-- R189 to R192: RLC and RRC rotate the 8 bits of A, RAL and RAR the 9 bits of Carry and A; Carry is the bit rotated out; no other
flag is written. -/
def Obligations.RotateResult : Prop :=
  ∀ s : State,
    encode .rlc = [0x07] ∧ encode .rrc = [0x0F] ∧ encode .ral = [0x17] ∧ encode .rar = [0x1F] ∧
    exec .rlc s = .next ({ s with a := s.a.rotateLeft 1, fl := { s.fl with cy := s.a.getLsbD 7 } }.after 1 4) ∧
    exec .rrc s = .next ({ s with a := s.a.rotateRight 1, fl := { s.fl with cy := s.a.getLsbD 0 } }.after 1 4) ∧
    (∃ t, exec .ral s = .next t ∧ t = { s with a := t.a, fl := { s.fl with cy := t.fl.cy } }.after 1 4 ∧
      BitVec.cons t.fl.cy t.a = (BitVec.cons s.fl.cy s.a).rotateLeft 1) ∧
    (∃ t, exec .rar s = .next t ∧ t = { s with a := t.a, fl := { s.fl with cy := t.fl.cy } }.after 1 4 ∧
      BitVec.cons t.fl.cy t.a = (BitVec.cons s.fl.cy s.a).rotateRight 1)

/-- R193, R194, R195: CMA complements A and writes no flag; CMC complements Carry; STC sets it. -/
def Obligations.ComplementAndCarryResult : Prop :=
  ∀ s : State,
    (encode .cma = [0x2F] ∧ exec .cma s = .next ({ s with a := BitVec.ofNat 8 (255 - s.a.toNat) }.after 1 4)) ∧
    (encode .cmc = [0x3F] ∧ exec .cmc s = .next ({ s with fl := { s.fl with cy := !s.fl.cy } }.after 1 4)) ∧
    (encode .stc = [0x37] ∧ exec .stc s = .next ({ s with fl := { s.fl with cy := true } }.after 1 4))

/-! Control transfer (44_branch.md). -/

/-- R201, R202: JMP transfers; a conditional jump transfers when its condition holds and otherwise advances by 3; 10 cycles either
way; nothing else changes. -/
def Obligations.JumpResult : Prop :=
  ∀ (s : State) (w : Word),
    let jumps (op : Byte) (i : Instr) (taken : Bool) : Prop :=
      encode i = [op, loByte w, hiByte w] ∧ exec i s = .next (if taken then s.goto w 10 else s.after 3 10)
    jumps 0xC3 (.jmp w) true ∧
    jumps 0xC2 (.jnz w) (!s.fl.z) ∧ jumps 0xCA (.jz w) s.fl.z ∧
    jumps 0xD2 (.jnc w) (!s.fl.cy) ∧ jumps 0xDA (.jc w) s.fl.cy ∧
    jumps 0xE2 (.jpo w) (!s.fl.p) ∧ jumps 0xEA (.jpe w) s.fl.p ∧
    jumps 0xF2 (.jp w) (!s.fl.s) ∧ jumps 0xFA (.jm w) s.fl.s

/-- R203, R204: CALL and a taken conditional call push `pc + 3`, low byte lower, and transfer, 17 cycles; a push out of range faults
and changes nothing else; a conditional call not taken advances by 3 at 11 cycles and touches no memory. -/
def Obligations.CallResult : Prop :=
  ∀ (s : State) (w : Word),
    let calls (op : Byte) (i : Instr) (taken : Bool) : Prop :=
      encode i = [op, loByte w, hiByte w] ∧
      (taken = true → s.pushOk → ∃ t, exec i s = .next t ∧
        t = { s.goto w 17 with sp := s.sp - 2, mem := t.mem } ∧
        s.storedWord t (s.sp - 2).toNat (hiByte (s.pc + 3)) (loByte (s.pc + 3))) ∧
      (taken = true → ¬ s.pushOk → exec i s = .next (s.takeFault
        (.addressOutOfRange s.pc (some op) (s.wordFaultAddr (s.sp - 2).toNat) .write))) ∧
      (taken = false → exec i s = .next (s.after 3 11))
    calls 0xCD (.call w) true ∧
    calls 0xC4 (.cnz w) (!s.fl.z) ∧ calls 0xCC (.cz w) s.fl.z ∧
    calls 0xD4 (.cnc w) (!s.fl.cy) ∧ calls 0xDC (.cc w) s.fl.cy ∧
    calls 0xE4 (.cpo w) (!s.fl.p) ∧ calls 0xEC (.cpe w) s.fl.p ∧
    calls 0xF4 (.cp w) (!s.fl.s) ∧ calls 0xFC (.cm w) s.fl.s

/-- R205, R206: RET and a taken conditional return pop `pc` and move SP up by 2, at 10 and 11 cycles; a read out of range faults and
changes nothing else; a conditional return not taken advances by 1 at 5 cycles. -/
def Obligations.ReturnResult : Prop :=
  ∀ s : State,
    let returns (op : Byte) (i : Instr) (cost : Nat) (taken : Bool) : Prop :=
      encode i = [op] ∧
      (taken = true → s.popOk → exec i s = .next
        ({ s with sp := s.sp + 2 }.goto (s.mem.read (s.sp.toNat + 1) ++ s.mem.read s.sp.toNat) cost)) ∧
      (taken = true → ¬ s.popOk → exec i s = .next (s.takeFault
        (.addressOutOfRange s.pc (some op) (s.wordFaultAddr s.sp.toNat) .read))) ∧
      (taken = false → exec i s = .next (s.after 1 5))
    returns 0xC9 .ret 10 true ∧
    returns 0xC0 .rnz 11 (!s.fl.z) ∧ returns 0xC8 .rz 11 s.fl.z ∧
    returns 0xD0 .rnc 11 (!s.fl.cy) ∧ returns 0xD8 .rc 11 s.fl.cy ∧
    returns 0xE0 .rpo 11 (!s.fl.p) ∧ returns 0xE8 .rpe 11 s.fl.p ∧
    returns 0xF0 .rp 11 (!s.fl.s) ∧ returns 0xF8 .rm 11 s.fl.s

/-- R207: RST n pushes `pc + 1` and transfers to `8 * n`; the interrupt enable is not changed. -/
def Obligations.RstResult : Prop :=
  ∀ (s : State) (n : VecNum),
    encode (.rst n) = [BitVec.ofNat 8 (0xC7 + 8 * n.val)] ∧
    (s.pushOk → ∃ t, exec (.rst n) s = .next t ∧
      t = { s.goto (BitVec.ofNat 16 (8 * n.val)) 11 with sp := s.sp - 2, mem := t.mem } ∧
      s.storedWord t (s.sp - 2).toNat (hiByte (s.pc + 1)) (loByte (s.pc + 1))) ∧
    (¬ s.pushOk → exec (.rst n) s = .next (s.takeFault
      (.addressOutOfRange s.pc (some (BitVec.ofNat 8 (0xC7 + 8 * n.val))) (s.wordFaultAddr (s.sp - 2).toNat) .write)))

/-! Stack, ports, interrupt control (45_stack_io_control.md, 40_execution_loop.md). -/

/-- R220, R222, R223, R29: PUSH stores the high register above the low one, PUSH PSW stores A above the flag byte, whose bits 7 to
0 are S, Z, 0, AC, 0, P, 1, CY; SP moves down by 2, mod 65536. -/
def Obligations.PushResult : Prop :=
  ∀ (s : State) (p : Pair),
    let flagByte := 128 * s.fl.s.toNat + 64 * s.fl.z.toNat + 16 * s.fl.ac.toNat + 4 * s.fl.p.toNat + 2 + s.fl.cy.toNat
    let pushes (i : Instr) (op hi lo : Byte) : Prop :=
      encode i = [op] ∧
      (s.pushOk → ∃ t, exec i s = .next t ∧ t = { s.after 1 11 with sp := s.sp - 2, mem := t.mem } ∧
        s.storedWord t (s.sp - 2).toNat hi lo) ∧
      (¬ s.pushOk → exec i s = .next (s.takeFault
        (.addressOutOfRange s.pc (some op) (s.wordFaultAddr (s.sp - 2).toNat) .write)))
    pushes (.push p) (0b11#2 ++ p.code ++ 0b0101#4) (s.getReg (pairHi p)) (s.getReg (pairLo p)) ∧
    pushes .pushPsw 0xF5 s.a (BitVec.ofNat 8 flagByte)

/-- R221, R224, R225, R29: POP takes the low register from SP and the high one from the next byte; POP PSW takes the five flags from
bits 7, 6, 4, 2 and 0 of the byte at SP, ignoring bits 5, 3 and 1, and A from the next; SP moves up by 2, mod 65536; memory is
unchanged. -/
def Obligations.PopResult : Prop :=
  ∀ (s : State) (p : Pair),
    let lo := s.mem.read s.sp.toNat
    let hi := s.mem.read (s.sp.toNat + 1)
    (encode (.pop p) = [0b11#2 ++ p.code ++ 0b0001#4] ∧
      (s.popOk → exec (.pop p) s =
        .next (({ s with sp := s.sp + 2 }.setReg (pairHi p) hi |>.setReg (pairLo p) lo).after 1 10)) ∧
      (¬ s.popOk → exec (.pop p) s = .next (s.takeFault
        (.addressOutOfRange s.pc (some (0b11#2 ++ p.code ++ 0b0001#4)) (s.wordFaultAddr s.sp.toNat) .read)))) ∧
    (encode .popPsw = [0xF1] ∧
      (s.popOk → exec .popPsw s = .next ({ s with
        sp := s.sp + 2
        a := hi
        fl := { s := lo.getLsbD 7, z := lo.getLsbD 6, ac := lo.getLsbD 4, p := lo.getLsbD 2, cy := lo.getLsbD 0 } }.after 1 10)) ∧
      (¬ s.popOk → exec .popPsw s = .next (s.takeFault
        (.addressOutOfRange s.pc (some 0xF1) (s.wordFaultAddr s.sp.toNat) .read))))

/-- R226: XTHL exchanges L with the byte at SP and H with the next one; SP is unchanged; out of range the read faults and nothing
has been written. -/
def Obligations.XthlResult : Prop :=
  ∀ s : State,
    encode .xthl = [0xE3] ∧
    (s.popOk → ∃ t, exec .xthl s = .next t ∧
      t = { s.after 1 18 with l := s.mem.read s.sp.toNat, h := s.mem.read (s.sp.toNat + 1), mem := t.mem } ∧
      s.storedWord t s.sp.toNat s.h s.l) ∧
    (¬ s.popOk → exec .xthl s = .next (s.takeFault
      (.addressOutOfRange s.pc (some 0xE3) (s.wordFaultAddr s.sp.toNat) .read)))

/-- R228, R229: IN sets A to the byte the host answers on this occasion, a free value that may be any byte (log entry 2), and
writes no flag; OUT emits one event, recorded after the earlier ones (log entry 5), and changes nothing else. -/
def Obligations.PortResult : Prop :=
  ∀ (s : State) (port : Byte),
    (encode (.inp port) = [0xDB, port] ∧
      exec (.inp port) s = .next
        ({ s with a := Config.portIn port s.portReads, portReads := s.portReads + 1 }.after 2 10)) ∧
    (encode (.out port) = [0xD3, port] ∧
      exec (.out port) s = .next ({ s with portWrites := s.portWrites ++ [(port, s.a)] }.after 2 10))

/-- R130, R131, R230, R231: NOP only advances; HLT sets Halted and advances; EI and DI set and clear the interrupt enable and leave
the pending vector. -/
def Obligations.NopHltEiDiResult : Prop :=
  ∀ s : State,
    (encode .nop = [0x00] ∧ exec .nop s = .next (s.after 1 4)) ∧
    (encode .hlt = [0x76] ∧ exec .hlt s = .next ({ s with status := .halted }.after 1 7)) ∧
    (encode .ei = [0xFB] ∧ exec .ei s = .next ({ s with inte := true }.after 1 4)) ∧
    (encode .di = [0xF3] ∧ exec .di s = .next ({ s with inte := false }.after 1 4))

/-! Properties of two instructions together. -/

/-- R225, R203, R205: "PUSH PSW then POP PSW restores A and the five flags exactly", and SP, whatever stood in memory; a CALL and
the RET that finds SP where the CALL left it resume at the instruction after the CALL with SP as before. -/
def Obligations.StackRoundTrips : Prop :=
  ∀ (s : State) (w : Word), s.pushOk →
    (∃ t u, exec .pushPsw s = .next t ∧ exec .popPsw t = .next u ∧ u.a = s.a ∧ u.fl = s.fl ∧ u.sp = s.sp) ∧
    (∃ t u, exec (.call w) s = .next t ∧ exec .ret t = .next u ∧
      t.pc = w ∧ u.pc = s.pc + 3 ∧ u.sp = s.sp ∧ u.mem = t.mem)

/-- R78, R278: a store into the byte after a one-byte store instruction is seen by the very next fetch: the next step runs the
instruction that was stored. -/
def Obligations.StoreSeenByNextFetch : Prop :=
  ∀ (s : State) (r : Reg) (i : Instr),
    s.runs (.movMR r) → s.inRange s.hl.toNat → s.hl = s.pc + 1 →
    i.wf s.cfg.table = true → i.length = 1 → s.getReg r = i.opcode →
    ∃ t, step s = .next t ∧ step t = exec i t

/-- R72, R242: with a full 64 KiB memory a 16-bit access whose first byte is at 0xFFFF faults at 0x10000 and does not wrap: LHLD and
SHLD there, POP, RET and XTHL with SP = 0xFFFF, PUSH, CALL and RST with SP = 0x0001. -/
def Obligations.WordAccessAtTopFaults : Prop :=
  ∀ (s : State) (p : Pair) (w : Word) (n : VecNum), s.cfg.memSize = 65536 →
    let faults (i : Instr) (acc : Access) : Prop := exec i s = .next { s with
      status := .faulted, fault := some (.addressOutOfRange s.pc (some i.opcode) 0x10000 acc) }
    faults (.lhld 0xFFFF) .read ∧ faults (.shld 0xFFFF) .write ∧
    (s.sp = 0xFFFF → faults (.pop p) .read ∧ faults .popPsw .read ∧ faults .ret .read ∧ faults .xthl .read) ∧
    (s.sp = 0x0001 → faults (.push p) .write ∧ faults .pushPsw .write ∧ faults (.call w) .write ∧ faults (.rst n) .write)

/-! Registers, memory and the host interface (10_state.md, 20_memory.md, 70_reset_and_hazards.md). -/

/-- R21, R22: "setting a register to `v` then reading it returns `v`", and leaves the other registers; a pair likewise, whose halves
are the high and the low byte. -/
def Obligations.RegisterRoundTrip : Prop :=
  ∀ (s : State) (r r' : Reg) (v : Byte) (p : Pair) (w : Word),
    (s.setReg r v).getReg r = v ∧ (r' ≠ r → (s.setReg r v).getReg r' = s.getReg r') ∧
    (s.setPair p w).getPair p = w ∧
    ((s.setPair p w).getReg (pairHi p)).toNat = w.toNat / 256 ∧ ((s.setPair p w).getReg (pairLo p)).toNat = w.toNat % 256

/-- R62, R63, R64, R65, R67: byte and word accesses, range-checked first and little-endian: after a 16-bit write the byte at the
address is the low one, the next the high one, a 16-bit read gives the word back, and every other byte is unchanged; a write that
is out of range at either byte writes nothing. -/
def Obligations.MemoryAccessLaws : Prop :=
  ∀ (s : State) (x : Nat) (v : Byte) (w : Word) (acc : Access),
    (s.inRange x → s.memRead1 acc x = .ok (s.mem.read x) ∧
      ∃ t, s.memWrite1 acc x v = .ok t ∧ t = { s with mem := t.mem } ∧ s.storedByte t x v ∧ t.memRead1 acc x = .ok v) ∧
    (¬ s.inRange x → s.memRead1 acc x = .error ⟨x, acc⟩ ∧ s.memWrite1 acc x v = .error ⟨x, acc⟩) ∧
    (s.inRange x ∧ s.inRange (x + 1) → s.memRead2 acc x = .ok (s.mem.read (x + 1) ++ s.mem.read x) ∧
      ∃ t, s.memWrite2 acc x w = .ok t ∧ t = { s with mem := t.mem } ∧
        s.storedWord t x (BitVec.ofNat 8 (w.toNat / 256)) (BitVec.ofNat 8 w.toNat) ∧ t.memRead2 acc x = .ok w) ∧
    (¬ (s.inRange x ∧ s.inRange (x + 1)) → s.memRead2 acc x = .error ⟨s.wordFaultAddr x, acc⟩ ∧
      s.memWrite2 acc x w = .error ⟨s.wordFaultAddr x, acc⟩)

/-- R66: `load` copies the bytes and nothing else when they fit, and otherwise copies nothing and reports LoadOutOfRange. -/
def Obligations.LoadCopiesOrRefuses : Prop :=
  ∀ (s : State) (bytes : List Byte) (base : Nat),
    (base + bytes.length ≤ s.cfg.memSize → ∃ t, hostLoad bytes base s = .ok t ∧ t = { s with mem := t.mem } ∧
      ∀ x, t.mem.read x = if base ≤ x ∧ x < base + bytes.length then bytes.getD (x - base) 0 else s.mem.read x) ∧
    (s.cfg.memSize < base + bytes.length → hostLoad bytes base s = .error .loadOutOfRange)

/-- R50, R270, R247: `new` accepts exactly the sizes 1 to 65536 and fixes pc, status, inte, pending, cycles and fault; the registers,
SP, flags and memory are those given; `inject` accepts exactly the vectors 0 to 7, in any status, and sets the pending slot; the name
`sizeRefused` is the model's (log entry 13). -/
def Obligations.NewAndInject : Prop :=
  (∀ (n : Nat) (tbl : Table) (ana : AnaAc) (r : ResetInput),
    (1 ≤ n ∧ n ≤ 65536 → ∃ s, hostNew n tbl ana r = .ok s ∧ s.cfg = ⟨n, tbl, ana⟩ ∧
      s.pc = 0x0000 ∧ s.status = .running ∧ s.inte = false ∧ s.pending = none ∧ s.cycles = 0 ∧ s.fault = none ∧
      s.a = r.a ∧ s.b = r.b ∧ s.c = r.c ∧ s.d = r.d ∧ s.e = r.e ∧ s.h = r.h ∧ s.l = r.l ∧
      s.sp = r.sp ∧ s.fl = r.fl ∧ s.mem = r.mem) ∧
    (¬ (1 ≤ n ∧ n ≤ 65536) → hostNew n tbl ana r = .error .sizeRefused)) ∧
  ∀ (n : Nat) (s : State),
    (∀ h : n < 8, hostInject n s = .ok { s with pending := some ⟨n, h⟩ }) ∧
    (8 ≤ n → hostInject n s = .error .invalidVector)

/-- R272, R273: `restore(snapshot())` is the identity; and restoring a snapshot after any run of the core gives back every
component of the state tuple, the terminal states included; the model's own record of port transactions stays (log entry 10). -/
def Obligations.SnapshotRestore : Prop :=
  (∀ s : State, hostRestore (hostSnapshot s) s = .ok s) ∧
  ∀ s t : State, Reaches s t → hostRestore (hostSnapshot s) t =
    .ok { s with portReads := t.portReads, portWrites := t.portWrites }

/-- R128: `run_until_halt` is a sequence of steps: while Running it takes a step and goes on from the next state; it is resumed by
calling it again, does nothing in a terminal status or when the stop signal comes at once, and only reaches states that steps reach; the step budget that stands for the stop signal is the model's choice (log entry 12). -/
def Obligations.RunUntilHaltIsSteps : Prop :=
  ∀ (n m : Nat) (s : State),
    (∀ t, s.status = .running → step s = .next t → runUntilHalt (n + 1) s = runUntilHalt n t) ∧
    runUntilHalt 0 s = s ∧
    runUntilHalt (n + m) s = runUntilHalt m (runUntilHalt n s) ∧
    (s.status ≠ .running → runUntilHalt n s = s) ∧ Reaches s (runUntilHalt n s)
end

