-- ==== Sys2Proof/Laws/Codec.lean ====
section
/-! SUPPORT. Bytes of words, and the field codes: each code is read back as what it stands for. -/

namespace Sys2Proof

theorem toNat_concat (hi lo : Byte) : (concat hi lo).toNat = hi.toNat * 256 + lo.toNat := by
  have h := Nat.two_pow_add_eq_or_of_lt (i := 8) lo.isLt hi.toNat
  simp only [concat, BitVec.toNat_append, Nat.shiftLeft_eq, Nat.mul_comm hi.toNat]
  omega

theorem hiByte_toNat (w : Word) : (hiByte w).toNat = w.toNat / 256 := by
  have := w.isLt
  simp only [hiByte, BitVec.extractLsb'_toNat, Nat.shiftRight_eq_div_pow]
  omega

theorem loByte_toNat (w : Word) : (loByte w).toNat = w.toNat % 256 := by
  simp [loByte, BitVec.extractLsb'_toNat]

@[simp] theorem hiByte_concat (hi lo : Byte) : hiByte (concat hi lo) = hi := by
  apply BitVec.eq_of_toNat_eq
  have := lo.isLt
  rw [hiByte_toNat, toNat_concat]
  omega

@[simp] theorem loByte_concat (hi lo : Byte) : loByte (concat hi lo) = lo := by
  apply BitVec.eq_of_toNat_eq
  have := lo.isLt
  rw [loByte_toNat, toNat_concat]
  omega

@[simp] theorem concat_hi_lo (w : Word) : concat (hiByte w) (loByte w) = w := by
  apply BitVec.eq_of_toNat_eq
  rw [toNat_concat, hiByte_toNat, loByte_toNat]
  omega

@[simp] theorem R8.ofCode_code (x : R8) : R8.ofCode x.code = x := by
  cases x with
  | reg r => cases r <;> rfl
  | m => rfl

@[simp] theorem R8.code_ofCode (v : BitVec 3) : (R8.ofCode v).code = v := by
  revert v; decide

@[simp] theorem Cond.ofCode_code (x : Cond) : Cond.ofCode x.code = x := by cases x <;> rfl

@[simp] theorem Cond.code_ofCode (v : BitVec 3) : (Cond.ofCode v).code = v := by
  revert v; decide

/-- The three fields of an opcode byte (R98). -/
theorem opcodeOf_fields (q : BitVec 2) (y z : BitVec 3) :
    (opcodeOf q y z).extractLsb' 6 2 = q ∧ (opcodeOf q y z).extractLsb' 3 3 = y ∧
      (opcodeOf q y z).extractLsb' 0 3 = z := by
  revert q y z; decide

/-- An opcode byte is made of its three fields (R98). -/
theorem opcodeOf_of_fields (op : Byte) :
    opcodeOf (op.extractLsb' 6 2) (op.extractLsb' 3 3) (op.extractLsb' 0 3) = op := by
  revert op; decide

/-- The full map, read off the three fields of the opcode byte (R98). -/
theorem bound8080_opcodeOf (q : BitVec 2) (y z : BitVec 3) (b2 b3 : Byte) :
    bound8080 (opcodeOf q y z) b2 b3 =
      match q.toNat with
      | 0 => decodeQ0 y z b2 b3
      | 1 => some (decodeMov (.ofCode y) (.ofCode z))
      | 2 => some (decodeQ2 y z)
      | _ => decodeQ3 y z b2 b3 := by
  obtain ⟨hq, hy, hz⟩ := opcodeOf_fields q y z
  simp only [bound8080, hq, hy, hz] <;> rfl

/-- R91: an instruction has as many operand bytes as its declared length leaves. -/
theorem operands_length (i : Instr) : i.operands.length + 1 = i.length := by
  cases i <;> rfl

end Sys2Proof
end

