-- ==== Sys2Proof/Laws/Flags.lean ====
section
/-! SUPPORT. The flag unit and the ALU against natural numbers. -/

namespace Sys2Proof.Machine

theorem parity8_eq (v : Byte) :
    parity8 v = decide (((List.range 8).countP fun k => v.toNat.testBit k) % 2 = 0) := by
  revert v; decide

theorem isZero_eq {n : Nat} (v : BitVec n) : isZero v = decide (v.toNat = 0) := by
  rw [Bool.eq_iff_iff]
  simp only [isZero, beq_iff_eq, decide_eq_true_eq]
  exact ⟨fun h => by simp [h], fun h => BitVec.eq_of_toNat_eq (by simpa using h)⟩

theorem isNegative_eq (v : Byte) : isNegative v = decide (128 ≤ v.toNat) := by
  revert v; decide

/-- The flags of an ALU result are those computed from the result as a number. -/
theorem ofAlu_eq_refFlags (r : AluOut) : Flags.ofAlu r = refFlags r.res.toNat r.cy r.ac := by
  simp [Flags.ofAlu, refFlags, isZero_eq, isNegative_eq, parity8_eq]

theorem szp_eq_refFlags (fl : Flags) (v : Byte) (b : Bool) :
    { fl.szp v with ac := b } = refFlags v.toNat fl.cy b := by
  simp [Flags.szp, refFlags, isZero_eq, isNegative_eq, parity8_eq]

/-- R161, the second form of the rule: the difference, the borrow, and the low nibble that needs none. -/
theorem sub8_eq (x y : Byte) (b : Bool) :
    sub8 x y b =
      { res := BitVec.ofNat 8 ((x.toNat + 256 - y.toNat - b.toNat) % 256)
        cy := decide (x.toNat < y.toNat + b.toNat)
        ac := decide (y.toNat % 16 + b.toNat ≤ x.toNat % 16) } := by
  have hx := x.isLt
  have hy := y.isLt
  have hc : (255 - y : Byte).toNat = 255 - y.toNat := by
    rw [BitVec.toNat_sub_of_le (by rw [BitVec.le_def]; simp; omega)]; simp
  have hb : b.toNat ≤ 1 := Bool.toNat_le b
  have hnb : (!b).toNat = 1 - b.toNat := by cases b <;> rfl
  simp only [sub8, add8, hc, hnb, AluOut.mk.injEq]
  refine ⟨?_, ?_, ?_⟩
  · apply BitVec.eq_of_toNat_eq
    simp only [BitVec.toNat_ofNat]
    omega
  · rw [Bool.eq_iff_iff]; simp only [Bool.not_eq_true', decide_eq_false_iff_not, decide_eq_true_eq]; omega
  · rw [Bool.eq_iff_iff]; simp only [decide_eq_true_eq]; omega

@[simp] theorem ofByte_toByte (fl : Flags) : Flags.ofByte fl.toByte = fl := by
  obtain ⟨z, s, p, cy, ac⟩ := fl
  revert z s p cy ac; decide

end Sys2Proof.Machine
end

