-- ==== Sys2Proof/Laws/Memory.lean ====
section
/-! SUPPORT. Memory: read after write, and every operation keeps the canonical form. -/

namespace Sys2Proof.Machine.Memory

variable (m : Memory) (x y : Nat) (v : Byte)

theorem read_erase_same : Memory.read (Memory.erase m x) x = unlistedByte := by
  induction m with
  | nil => rfl
  | cons cell m ih =>
    obtain ⟨k, w⟩ := cell
    by_cases h : k = x
    · simpa [Memory.erase, h] using ih
    · simpa [Memory.erase, Memory.read, h] using ih

theorem read_erase_other (h : y ≠ x) : Memory.read (Memory.erase m x) y = Memory.read m y := by
  induction m with
  | nil => rfl
  | cons cell m ih =>
    obtain ⟨k, w⟩ := cell
    by_cases hk : k = x
    · subst hk
      simpa [Memory.erase, Memory.read, Ne.symm h] using ih
    · by_cases hy : k = y
      · subst hy
        simp [Memory.erase, Memory.read, hk]
      · simpa [Memory.erase, Memory.read, hk, hy] using ih

theorem mem_erase {cell : Host.Cell} (h : cell ∈ Memory.erase m x) : cell ∈ m ∧ cell.1 ≠ x := by
  simpa [Memory.erase] using h

theorem mem_insert {cell : Host.Cell} (h : cell ∈ Memory.insert m x v) : cell = (x, v) ∨ cell ∈ m := by
  induction m with
  | nil => simpa [Memory.insert] using h
  | cons c m ih =>
    obtain ⟨k, w⟩ := c
    simp only [Memory.insert] at h
    split at h
    · simpa using h
    · rcases List.mem_cons.1 h with h | h
      · exact .inr (h ▸ List.mem_cons_self)
      · exact (ih h).imp id (List.mem_cons_of_mem _)

theorem read_insert_same (h : ∀ cell ∈ m, cell.1 ≠ x) : Memory.read (Memory.insert m x v) x = v := by
  induction m with
  | nil => simp [Memory.insert, Memory.read]
  | cons c m ih =>
    obtain ⟨k, w⟩ := c
    have hk : k ≠ x := h _ List.mem_cons_self
    simp only [Memory.insert]
    split
    · simp [Memory.read]
    · simpa [Memory.read, hk] using ih fun c hc => h c (List.mem_cons_of_mem _ hc)

theorem read_insert_other (h : y ≠ x) : Memory.read (Memory.insert m x v) y = Memory.read m y := by
  induction m with
  | nil => simp [Memory.insert, Memory.read, Ne.symm h]
  | cons c m ih =>
    obtain ⟨k, w⟩ := c
    simp only [Memory.insert]
    split
    · simp [Memory.read, Ne.symm h]
    · simp only [Memory.read]
      split <;> simp_all

/-- A read after a write to the same address gives the value written. -/
@[simp] theorem read_write_same : Memory.read (Memory.write m x v) x = v := by
  simp only [Memory.write]
  split
  · next h => rw [read_erase_same, h]
  · exact read_insert_same _ _ _ fun c hc => (mem_erase m x hc).2

/-- A write leaves every other address alone. -/
theorem read_write_other (h : y ≠ x) : Memory.read (Memory.write m x v) y = Memory.read m y := by
  simp only [Memory.write]
  split
  · exact read_erase_other m x y h
  · rw [read_insert_other _ _ _ _ h, read_erase_other m x y h]

theorem read_write : Memory.read (Memory.write m x v) y = if y = x then v else Memory.read m y := by
  split
  · next h => subst h; simp
  · next h => exact read_write_other m x y v h

theorem wf_erase (h : Memory.wf m) : Memory.wf (Memory.erase m x) :=
  ⟨h.1.filter _, fun c hc => h.2 c (mem_erase m x hc).1⟩

theorem pairwise_insert (hs : m.Pairwise fun c d => c.1 < d.1) (hx : ∀ cell ∈ m, cell.1 ≠ x) :
    (Memory.insert m x v).Pairwise fun c d => c.1 < d.1 := by
  induction m with
  | nil => simp [Memory.insert]
  | cons c m ih =>
    obtain ⟨k, w⟩ := c
    rw [List.pairwise_cons] at hs
    have hk : k ≠ x := hx _ List.mem_cons_self
    simp only [Memory.insert]
    split
    · next hlt =>
      refine List.pairwise_cons.2 ⟨fun d hd => ?_, List.pairwise_cons.2 hs⟩
      rcases List.mem_cons.1 hd with rfl | hd
      · exact hlt
      · exact lt_trans hlt (hs.1 d hd)
    · next hge =>
      refine List.pairwise_cons.2 ⟨fun d hd => ?_, ih hs.2 fun c hc => hx c (List.mem_cons_of_mem _ hc)⟩
      rcases mem_insert m x v hd with rfl | hd
      · change k < x; omega
      · exact hs.1 d hd

/-- A write keeps the canonical form. -/
theorem wf_write (h : Memory.wf m) : Memory.wf (Memory.write m x v) := by
  have he := wf_erase m x h
  simp only [Memory.write]
  split
  · exact he
  · next hv =>
    refine ⟨pairwise_insert _ _ _ he.1 fun c hc => (mem_erase m x hc).2, fun c hc => ?_⟩
    rcases mem_insert _ _ _ hc with rfl | hc
    · exact hv
    · exact he.2 c hc

/-- A write adds no cell but the one it writes. -/
theorem mem_write {cell : Host.Cell} (h : cell ∈ Memory.write m x v) : cell = (x, v) ∨ cell ∈ m := by
  simp only [Memory.write] at h
  split at h
  · exact .inr (mem_erase m x h).1
  · exact (mem_insert _ _ _ h).imp id fun h => (mem_erase m x h).1

theorem wf_writeAll (vs : List Byte) (h : Memory.wf m) : Memory.wf (Memory.writeAll m x vs) := by
  induction vs generalizing m x with
  | nil => exact h
  | cons v vs ih => exact ih _ _ (wf_write m x v h)

theorem mem_writeAll (vs : List Byte) {cell : Host.Cell} (h : cell ∈ Memory.writeAll m x vs) :
    (x ≤ cell.1 ∧ cell.1 < x + vs.length) ∨ cell ∈ m := by
  induction vs generalizing m x with
  | nil => exact .inr h
  | cons v vs ih =>
    rcases ih _ _ h with ⟨h1, h2⟩ | h
    · simp only [List.length_cons]; exact .inl (by omega)
    · rcases mem_write _ _ _ h with rfl | h
      · simp only [List.length_cons]; exact .inl (by simp)
      · exact .inr h

theorem read_writeAll_before (vs : List Byte) (h : y < x) :
    Memory.read (Memory.writeAll m x vs) y = Memory.read m y := by
  induction vs generalizing m x with
  | nil => rfl
  | cons v vs ih =>
    rw [Memory.writeAll, ih _ _ (by omega), read_write_other _ _ _ _ (by omega)]

/-- After `writeAll`, each address of the range reads its byte and every other address reads as before (R66). -/
theorem read_writeAll (vs : List Byte) :
    Memory.read (Memory.writeAll m x vs) y = if h : x ≤ y ∧ y - x < vs.length then vs[y - x]'h.2 else Memory.read m y := by
  induction vs generalizing m x with
  | nil => simp [Memory.writeAll]
  | cons v vs ih =>
    rw [Memory.writeAll]
    rcases lt_trichotomy y x with h | h | h
    · rw [read_writeAll_before _ _ _ _ (by omega), read_write_other _ _ _ _ (by omega)]
      simp [show ¬ x ≤ y by omega]
    · subst h
      rw [read_writeAll_before _ _ _ _ (by omega)]
      simp
    · rw [ih, read_write_other _ _ _ _ (by omega)]
      obtain ⟨k, rfl⟩ : ∃ k, y = x + k + 1 := ⟨y - x - 1, by omega⟩
      have e1 : x + k + 1 - (x + 1) = k := by omega
      have e2 : x + k + 1 - x = k + 1 := by omega
      by_cases hk : k < vs.length
      · rw [dif_pos (by omega), dif_pos (by simp only [List.length_cons]; omega)]
        simp [e1, e2]
      · rw [dif_neg (by omega), dif_neg (by simp only [List.length_cons]; omega)]

/-- Two canonical memories that read alike at every address are equal data. -/
theorem ext_read {m n : Memory} (hm : Memory.wf m) (hn : Memory.wf n) (h : ∀ x, Memory.read m x = Memory.read n x) : m = n := by
  have below : ∀ (m : Memory) (x : Nat), (∀ c ∈ m, x < c.1) → Memory.read m x = unlistedByte := by
    intro m x hx
    induction m with
    | nil => rfl
    | cons c m ih =>
      obtain ⟨k, w⟩ := c
      have := hx (k, w) List.mem_cons_self
      simp only [Memory.read]
      rw [if_neg (by simp at this; omega)]
      exact ih fun c hc => hx c (List.mem_cons_of_mem _ hc)
  induction m generalizing n with
  | nil =>
    cases n with
    | nil => rfl
    | cons c n =>
      obtain ⟨k, w⟩ := c
      have := h k
      simp [Memory.read] at this
      exact absurd this.symm (hn.2 (k, w) List.mem_cons_self)
  | cons c m ih =>
    obtain ⟨k, w⟩ := c
    have hw : w ≠ unlistedByte := hm.2 (k, w) List.mem_cons_self
    have hm1 := List.pairwise_cons.1 hm.1
    cases n with
    | nil =>
      have := h k
      simp [Memory.read] at this
      exact absurd this hw
    | cons d n =>
      obtain ⟨k', w'⟩ := d
      have hw' : w' ≠ unlistedByte := hn.2 (k', w') List.mem_cons_self
      have hn1 := List.pairwise_cons.1 hn.1
      have hk : k = k' := by
        rcases lt_trichotomy k k' with hlt | heq | hgt
        · have := h k
          rw [below ((k', w') :: n) k (by
            intro c hc
            rcases List.mem_cons.1 hc with rfl | hc
            · exact hlt
            · exact lt_trans hlt (hn1.1 c hc))] at this
          simp [Memory.read] at this
          exact absurd this hw
        · exact heq
        · have := h k'
          rw [below ((k, w) :: m) k' (by
            intro c hc
            rcases List.mem_cons.1 hc with rfl | hc
            · exact hgt
            · exact lt_trans hgt (hm1.1 c hc))] at this
          simp [Memory.read] at this
          exact absurd this.symm hw'
      subst hk
      have hv : w = w' := by simpa [Memory.read] using h k
      subst hv
      have htail : m = n := by
        refine ih ⟨hm1.2, fun c hc => hm.2 c (List.mem_cons_of_mem _ hc)⟩
          ⟨hn1.2, fun c hc => hn.2 c (List.mem_cons_of_mem _ hc)⟩ fun x => ?_
        by_cases hx : k = x
        · subst hx
          rw [below m k hm1.1, below n k hn1.1]
        · simpa [Memory.read, hx] using h x
      rw [htail]

end Sys2Proof.Machine.Memory
end

