-- ==== Sys2Proof/Laws/State.lean ====
section
/-! SUPPORT. The register accessors and the state updates, field by field: what each leaves unchanged. -/

namespace Sys2Proof.Machine

variable (s : State) (r r' : Reg) (v : Byte) (w : Word) (p : Pair) (x : PairSP) (q : Byte × Bool) (o : AluOut) (y : Bool)

/-! `setReg` and `setPair` write general registers only. -/

@[simp] theorem setReg_cfg : (s.setReg r v).cfg = s.cfg := by cases r <;> rfl
@[simp] theorem setReg_sp : (s.setReg r v).sp = s.sp := by cases r <;> rfl
@[simp] theorem setReg_pc : (s.setReg r v).pc = s.pc := by cases r <;> rfl
@[simp] theorem setReg_fl : (s.setReg r v).fl = s.fl := by cases r <;> rfl
@[simp] theorem setReg_inte : (s.setReg r v).inte = s.inte := by cases r <;> rfl
@[simp] theorem setReg_pending : (s.setReg r v).pending = s.pending := by cases r <;> rfl
@[simp] theorem setReg_status : (s.setReg r v).status = s.status := by cases r <;> rfl
@[simp] theorem setReg_cycles : (s.setReg r v).cycles = s.cycles := by cases r <;> rfl
@[simp] theorem setReg_fault : (s.setReg r v).fault = s.fault := by cases r <;> rfl
@[simp] theorem setReg_mem : (s.setReg r v).mem = s.mem := by cases r <;> rfl
@[simp] theorem setReg_portReads : (s.setReg r v).portReads = s.portReads := by cases r <;> rfl
@[simp] theorem setReg_portWrites : (s.setReg r v).portWrites = s.portWrites := by cases r <;> rfl

@[simp] theorem getReg_setReg_same : (s.setReg r v).getReg r = v := by cases r <;> rfl

theorem getReg_setReg_other (h : r' ≠ r) : (s.setReg r v).getReg r' = s.getReg r' := by
  cases r <;> cases r' <;> first | rfl | exact absurd rfl h

theorem getReg_setReg : (s.setReg r v).getReg r' = if r' = r then v else s.getReg r' := by
  split
  · next h => subst h; simp
  · next h => exact getReg_setReg_other s r r' v h

@[simp] theorem setPair_cfg : (s.setPair p w).cfg = s.cfg := by simp [State.setPair]
@[simp] theorem setPair_sp : (s.setPair p w).sp = s.sp := by simp [State.setPair]
@[simp] theorem setPair_pc : (s.setPair p w).pc = s.pc := by simp [State.setPair]
@[simp] theorem setPair_fl : (s.setPair p w).fl = s.fl := by simp [State.setPair]
@[simp] theorem setPair_inte : (s.setPair p w).inte = s.inte := by simp [State.setPair]
@[simp] theorem setPair_pending : (s.setPair p w).pending = s.pending := by simp [State.setPair]
@[simp] theorem setPair_status : (s.setPair p w).status = s.status := by simp [State.setPair]
@[simp] theorem setPair_cycles : (s.setPair p w).cycles = s.cycles := by simp [State.setPair]
@[simp] theorem setPair_fault : (s.setPair p w).fault = s.fault := by simp [State.setPair]
@[simp] theorem setPair_mem : (s.setPair p w).mem = s.mem := by simp [State.setPair]
@[simp] theorem setPair_portReads : (s.setPair p w).portReads = s.portReads := by simp [State.setPair]
@[simp] theorem setPair_portWrites : (s.setPair p w).portWrites = s.portWrites := by simp [State.setPair]

theorem getReg_setPair_other (hh : r ≠ pairHi p) (hl : r ≠ pairLo p) : (s.setPair p w).getReg r = s.getReg r := by
  simp [State.setPair, getReg_setReg, hh, hl]

/-! `setRP` writes a pair or SP. -/

@[simp] theorem setRP_cfg : (s.setRP x w).cfg = s.cfg := by cases x <;> simp [State.setRP]
@[simp] theorem setRP_pc : (s.setRP x w).pc = s.pc := by cases x <;> simp [State.setRP]
@[simp] theorem setRP_fl : (s.setRP x w).fl = s.fl := by cases x <;> simp [State.setRP]
@[simp] theorem setRP_inte : (s.setRP x w).inte = s.inte := by cases x <;> simp [State.setRP]
@[simp] theorem setRP_pending : (s.setRP x w).pending = s.pending := by cases x <;> simp [State.setRP]
@[simp] theorem setRP_status : (s.setRP x w).status = s.status := by cases x <;> simp [State.setRP]
@[simp] theorem setRP_cycles : (s.setRP x w).cycles = s.cycles := by cases x <;> simp [State.setRP]
@[simp] theorem setRP_fault : (s.setRP x w).fault = s.fault := by cases x <;> simp [State.setRP]
@[simp] theorem setRP_mem : (s.setRP x w).mem = s.mem := by cases x <;> simp [State.setRP]
@[simp] theorem setRP_portReads : (s.setRP x w).portReads = s.portReads := by cases x <;> simp [State.setRP]
@[simp] theorem setRP_portWrites : (s.setRP x w).portWrites = s.portWrites := by cases x <;> simp [State.setRP]

/-! The ALU destinations. -/

@[simp] theorem setAcc_a : (s.setAcc o).a = o.res := rfl
@[simp] theorem setAcc_fl : (s.setAcc o).fl = Flags.ofAlu o := rfl
@[simp] theorem setAcc_cfg : (s.setAcc o).cfg = s.cfg := rfl
@[simp] theorem setAcc_b : (s.setAcc o).b = s.b := rfl
@[simp] theorem setAcc_c : (s.setAcc o).c = s.c := rfl
@[simp] theorem setAcc_d : (s.setAcc o).d = s.d := rfl
@[simp] theorem setAcc_e : (s.setAcc o).e = s.e := rfl
@[simp] theorem setAcc_h : (s.setAcc o).h = s.h := rfl
@[simp] theorem setAcc_l : (s.setAcc o).l = s.l := rfl
@[simp] theorem setAcc_sp : (s.setAcc o).sp = s.sp := rfl
@[simp] theorem setAcc_pc : (s.setAcc o).pc = s.pc := rfl
@[simp] theorem setAcc_inte : (s.setAcc o).inte = s.inte := rfl
@[simp] theorem setAcc_pending : (s.setAcc o).pending = s.pending := rfl
@[simp] theorem setAcc_status : (s.setAcc o).status = s.status := rfl
@[simp] theorem setAcc_cycles : (s.setAcc o).cycles = s.cycles := rfl
@[simp] theorem setAcc_fault : (s.setAcc o).fault = s.fault := rfl
@[simp] theorem setAcc_mem : (s.setAcc o).mem = s.mem := rfl
@[simp] theorem setAcc_portReads : (s.setAcc o).portReads = s.portReads := rfl
@[simp] theorem setAcc_portWrites : (s.setAcc o).portWrites = s.portWrites := rfl
@[simp] theorem setCompare_a : (s.setCompare o).a = s.a := rfl
@[simp] theorem setCompare_fl : (s.setCompare o).fl = Flags.ofAlu o := rfl
@[simp] theorem setCompare_cfg : (s.setCompare o).cfg = s.cfg := rfl
@[simp] theorem setCompare_b : (s.setCompare o).b = s.b := rfl
@[simp] theorem setCompare_c : (s.setCompare o).c = s.c := rfl
@[simp] theorem setCompare_d : (s.setCompare o).d = s.d := rfl
@[simp] theorem setCompare_e : (s.setCompare o).e = s.e := rfl
@[simp] theorem setCompare_h : (s.setCompare o).h = s.h := rfl
@[simp] theorem setCompare_l : (s.setCompare o).l = s.l := rfl
@[simp] theorem setCompare_sp : (s.setCompare o).sp = s.sp := rfl
@[simp] theorem setCompare_pc : (s.setCompare o).pc = s.pc := rfl
@[simp] theorem setCompare_inte : (s.setCompare o).inte = s.inte := rfl
@[simp] theorem setCompare_pending : (s.setCompare o).pending = s.pending := rfl
@[simp] theorem setCompare_status : (s.setCompare o).status = s.status := rfl
@[simp] theorem setCompare_cycles : (s.setCompare o).cycles = s.cycles := rfl
@[simp] theorem setCompare_fault : (s.setCompare o).fault = s.fault := rfl
@[simp] theorem setCompare_mem : (s.setCompare o).mem = s.mem := rfl
@[simp] theorem setCompare_portReads : (s.setCompare o).portReads = s.portReads := rfl
@[simp] theorem setCompare_portWrites : (s.setCompare o).portWrites = s.portWrites := rfl
@[simp] theorem setRotate_a : (s.setRotate q).a = q.1 := rfl
@[simp] theorem setRotate_fl : (s.setRotate q).fl = { s.fl with cy := q.2 } := rfl
@[simp] theorem setRotate_cfg : (s.setRotate q).cfg = s.cfg := rfl
@[simp] theorem setRotate_b : (s.setRotate q).b = s.b := rfl
@[simp] theorem setRotate_c : (s.setRotate q).c = s.c := rfl
@[simp] theorem setRotate_d : (s.setRotate q).d = s.d := rfl
@[simp] theorem setRotate_e : (s.setRotate q).e = s.e := rfl
@[simp] theorem setRotate_h : (s.setRotate q).h = s.h := rfl
@[simp] theorem setRotate_l : (s.setRotate q).l = s.l := rfl
@[simp] theorem setRotate_sp : (s.setRotate q).sp = s.sp := rfl
@[simp] theorem setRotate_pc : (s.setRotate q).pc = s.pc := rfl
@[simp] theorem setRotate_inte : (s.setRotate q).inte = s.inte := rfl
@[simp] theorem setRotate_pending : (s.setRotate q).pending = s.pending := rfl
@[simp] theorem setRotate_status : (s.setRotate q).status = s.status := rfl
@[simp] theorem setRotate_cycles : (s.setRotate q).cycles = s.cycles := rfl
@[simp] theorem setRotate_fault : (s.setRotate q).fault = s.fault := rfl
@[simp] theorem setRotate_mem : (s.setRotate q).mem = s.mem := rfl
@[simp] theorem setRotate_portReads : (s.setRotate q).portReads = s.portReads := rfl
@[simp] theorem setRotate_portWrites : (s.setRotate q).portWrites = s.portWrites := rfl
@[simp] theorem setCarry_a : (s.setCarry y).a = s.a := rfl
@[simp] theorem setCarry_fl : (s.setCarry y).fl = { s.fl with cy := y } := rfl
@[simp] theorem setCarry_cfg : (s.setCarry y).cfg = s.cfg := rfl
@[simp] theorem setCarry_b : (s.setCarry y).b = s.b := rfl
@[simp] theorem setCarry_c : (s.setCarry y).c = s.c := rfl
@[simp] theorem setCarry_d : (s.setCarry y).d = s.d := rfl
@[simp] theorem setCarry_e : (s.setCarry y).e = s.e := rfl
@[simp] theorem setCarry_h : (s.setCarry y).h = s.h := rfl
@[simp] theorem setCarry_l : (s.setCarry y).l = s.l := rfl
@[simp] theorem setCarry_sp : (s.setCarry y).sp = s.sp := rfl
@[simp] theorem setCarry_pc : (s.setCarry y).pc = s.pc := rfl
@[simp] theorem setCarry_inte : (s.setCarry y).inte = s.inte := rfl
@[simp] theorem setCarry_pending : (s.setCarry y).pending = s.pending := rfl
@[simp] theorem setCarry_status : (s.setCarry y).status = s.status := rfl
@[simp] theorem setCarry_cycles : (s.setCarry y).cycles = s.cycles := rfl
@[simp] theorem setCarry_fault : (s.setCarry y).fault = s.fault := rfl
@[simp] theorem setCarry_mem : (s.setCarry y).mem = s.mem := rfl
@[simp] theorem setCarry_portReads : (s.setCarry y).portReads = s.portReads := rfl
@[simp] theorem setCarry_portWrites : (s.setCarry y).portWrites = s.portWrites := rfl

/-! `takeFault` writes `status` and `fault` only (R243). -/

variable (f : FaultRecord)

@[simp] theorem takeFault_status : (s.takeFault f).status = .faulted := rfl
@[simp] theorem takeFault_fault : (s.takeFault f).fault = some f := rfl
@[simp] theorem takeFault_cfg : (s.takeFault f).cfg = s.cfg := rfl
@[simp] theorem takeFault_pc : (s.takeFault f).pc = s.pc := rfl
@[simp] theorem takeFault_sp : (s.takeFault f).sp = s.sp := rfl
@[simp] theorem takeFault_fl : (s.takeFault f).fl = s.fl := rfl
@[simp] theorem takeFault_inte : (s.takeFault f).inte = s.inte := rfl
@[simp] theorem takeFault_pending : (s.takeFault f).pending = s.pending := rfl
@[simp] theorem takeFault_cycles : (s.takeFault f).cycles = s.cycles := rfl
@[simp] theorem takeFault_mem : (s.takeFault f).mem = s.mem := rfl
@[simp] theorem takeFault_portReads : (s.takeFault f).portReads = s.portReads := rfl
@[simp] theorem takeFault_portWrites : (s.takeFault f).portWrites = s.portWrites := rfl
@[simp] theorem takeFault_getReg : (s.takeFault f).getReg r = s.getReg r := by cases r <;> rfl

end Sys2Proof.Machine
end

