-- ==== Sys2Proof/Laws/Ops.lean ====
section
/-! SUPPORT. What each shared operation answers, said once: in range, out of range, and what follows from its answer. -/

namespace Sys2Proof.Machine

variable {s t : State} {acc : Access} {x : Nat} {v : Byte} {w : Word} {f : AccessFault}

/-! Byte accesses (R62, R63). -/

theorem memRead1_of_inRange (h : s.inRange x) : s.memRead1 acc x = .ok (s.mem.read x) := by
  simp [State.memRead1, Nat.not_le.2 h]

theorem memRead1_of_not_inRange (h : ¬ s.inRange x) : s.memRead1 acc x = .error ⟨x, acc⟩ := by
  simp [State.memRead1, Nat.not_lt.1 h]

theorem memWrite1_of_inRange (h : s.inRange x) : s.memWrite1 acc x v = .ok { s with mem := s.mem.write x v } := by
  simp [State.memWrite1, Nat.not_le.2 h]

theorem memWrite1_of_not_inRange (h : ¬ s.inRange x) : s.memWrite1 acc x v = .error ⟨x, acc⟩ := by
  simp [State.memWrite1, Nat.not_lt.1 h]

/-! Word accesses (R64, R65). -/

theorem memRead2_of_inRange (h : s.inRange x ∧ s.inRange (x + 1)) :
    s.memRead2 acc x = .ok (concat (s.mem.read (x + 1)) (s.mem.read x)) := by
  simp only [State.memRead2, memRead1_of_inRange h.1, memRead1_of_inRange h.2]; rfl

theorem memRead2_of_not_inRange (h : ¬ (s.inRange x ∧ s.inRange (x + 1))) :
    s.memRead2 acc x = .error ⟨s.wordFaultAddr x, acc⟩ := by
  by_cases h0 : s.inRange x
  · simp only [State.memRead2, memRead1_of_inRange h0, memRead1_of_not_inRange (fun h1 => h ⟨h0, h1⟩),
      State.wordFaultAddr, if_pos h0]; rfl
  · simp only [State.memRead2, memRead1_of_not_inRange h0, State.wordFaultAddr, if_neg h0]; rfl

theorem memWrite2_of_inRange (h : s.inRange x ∧ s.inRange (x + 1)) :
    s.memWrite2 acc x w = .ok { s with mem := (s.mem.write x (loByte w)).write (x + 1) (hiByte w) } := by
  simp [State.memWrite2, Nat.not_le.2 h.1, Nat.not_le.2 h.2]

theorem memWrite2_of_not_inRange (h : ¬ (s.inRange x ∧ s.inRange (x + 1))) :
    s.memWrite2 acc x w = .error ⟨s.wordFaultAddr x, acc⟩ := by
  by_cases h0 : s.inRange x
  · have h1 : s.cfg.memSize ≤ x + 1 := Nat.not_lt.1 fun h1 => h ⟨h0, h1⟩
    simp [State.memWrite2, Nat.not_le.2 h0, h1, State.wordFaultAddr, h0]
  · simp [State.memWrite2, Nat.not_lt.1 h0, State.wordFaultAddr]

/-! The stack (R220, R221). -/

theorem push16_of_pushOk (h : s.pushOk) :
    s.push16 acc w = .ok { s with
      sp := s.sp - 2
      mem := (s.mem.write (s.sp - 2).toNat (loByte w)).write ((s.sp - 2).toNat + 1) (hiByte w) } := by
  simp only [State.push16, memWrite2_of_inRange h]; rfl

theorem push16_of_not_pushOk (h : ¬ s.pushOk) :
    s.push16 acc w = .error ⟨s.wordFaultAddr (s.sp - 2).toNat, acc⟩ := by
  simp only [State.push16, memWrite2_of_not_inRange h]; rfl

theorem pop16_of_popOk (h : s.popOk) :
    s.pop16 = .ok (concat (s.mem.read (s.sp.toNat + 1)) (s.mem.read s.sp.toNat), { s with sp := s.sp + 2 }) := by
  simp only [State.pop16, memRead2_of_inRange h]; rfl

theorem pop16_of_not_popOk (h : ¬ s.popOk) : s.pop16 = .error ⟨s.wordFaultAddr s.sp.toNat, .read⟩ := by
  simp only [State.pop16, memRead2_of_not_inRange h]; rfl

/-! The 8-bit operand (R94). -/

@[simp] theorem readR8_reg (r : Reg) : s.readR8 (.reg r) = .ok (s.getReg r) := rfl

theorem readR8_of_r8Ok {o : R8} (h : s.r8Ok o) : s.readR8 o = .ok (s.r8Value o) := by
  cases o with
  | reg r => rfl
  | m => exact memRead1_of_inRange (h rfl)

theorem readR8_m_of_not_inRange (h : ¬ s.inRange s.hl.toNat) : s.readR8 .m = .error ⟨s.hl.toNat, .read⟩ :=
  memRead1_of_not_inRange h

/-! What follows from an answer: the same facts read backwards. -/

theorem bind_eq_ok {ε α β : Type} {e : Except ε α} {g : α → Except ε β} {b : β} :
    (e >>= g) = .ok b ↔ ∃ a, e = .ok a ∧ g a = .ok b := by
  cases e <;> simp [bind, Except.bind]

theorem bind_eq_error {ε α β : Type} {e : Except ε α} {g : α → Except ε β} {r : ε} :
    (e >>= g) = .error r ↔ e = .error r ∨ ∃ a, e = .ok a ∧ g a = .error r := by
  cases e <;> simp [bind, Except.bind]

theorem memRead1_eq_ok : s.memRead1 acc x = .ok v ↔ s.inRange x ∧ v = s.mem.read x := by
  by_cases h : s.inRange x
  · rw [memRead1_of_inRange h]; simp [h, eq_comm]
  · rw [memRead1_of_not_inRange h]; simp [h]

theorem memRead1_eq_error : s.memRead1 acc x = .error f ↔ ¬ s.inRange x ∧ f = ⟨x, acc⟩ := by
  by_cases h : s.inRange x
  · rw [memRead1_of_inRange h]; simp [h]
  · rw [memRead1_of_not_inRange h]; simp [h, eq_comm]

theorem memRead2_eq_ok :
    s.memRead2 acc x = .ok w ↔
      (s.inRange x ∧ s.inRange (x + 1)) ∧ w = concat (s.mem.read (x + 1)) (s.mem.read x) := by
  by_cases h : s.inRange x ∧ s.inRange (x + 1)
  · rw [memRead2_of_inRange h]; simp [h, eq_comm]
  · rw [memRead2_of_not_inRange h]; simp [h]

theorem memRead2_eq_error :
    s.memRead2 acc x = .error f ↔ ¬ (s.inRange x ∧ s.inRange (x + 1)) ∧ f = ⟨s.wordFaultAddr x, acc⟩ := by
  by_cases h : s.inRange x ∧ s.inRange (x + 1)
  · rw [memRead2_of_inRange h]; simp [h]
  · rw [memRead2_of_not_inRange h]; simp [h, eq_comm]

theorem memWrite1_eq_ok :
    s.memWrite1 acc x v = .ok t ↔ s.inRange x ∧ t = { s with mem := s.mem.write x v } := by
  by_cases h : s.inRange x
  · rw [memWrite1_of_inRange h]; simp [h, eq_comm]
  · rw [memWrite1_of_not_inRange h]; simp [h]

theorem memWrite1_eq_error : s.memWrite1 acc x v = .error f ↔ ¬ s.inRange x ∧ f = ⟨x, acc⟩ := by
  by_cases h : s.inRange x
  · rw [memWrite1_of_inRange h]; simp [h]
  · rw [memWrite1_of_not_inRange h]; simp [h, eq_comm]

theorem memWrite2_eq_ok :
    s.memWrite2 acc x w = .ok t ↔
      (s.inRange x ∧ s.inRange (x + 1)) ∧
        t = { s with mem := (s.mem.write x (loByte w)).write (x + 1) (hiByte w) } := by
  by_cases h : s.inRange x ∧ s.inRange (x + 1)
  · rw [memWrite2_of_inRange h]; simp [h, eq_comm]
  · rw [memWrite2_of_not_inRange h]; simp [h]

theorem memWrite2_eq_error :
    s.memWrite2 acc x w = .error f ↔ ¬ (s.inRange x ∧ s.inRange (x + 1)) ∧ f = ⟨s.wordFaultAddr x, acc⟩ := by
  by_cases h : s.inRange x ∧ s.inRange (x + 1)
  · rw [memWrite2_of_inRange h]; simp [h]
  · rw [memWrite2_of_not_inRange h]; simp [h, eq_comm]

theorem push16_eq_ok :
    s.push16 acc w = .ok t ↔ s.pushOk ∧ t = { s with
      sp := s.sp - 2
      mem := (s.mem.write (s.sp - 2).toNat (loByte w)).write ((s.sp - 2).toNat + 1) (hiByte w) } := by
  by_cases h : s.pushOk
  · rw [push16_of_pushOk h, Except.ok.injEq, eq_comm]; exact ⟨fun e => ⟨h, e⟩, And.right⟩
  · rw [push16_of_not_pushOk h]; exact ⟨nofun, fun e => absurd e.1 h⟩

theorem push16_eq_error :
    s.push16 acc w = .error f ↔ ¬ s.pushOk ∧ f = ⟨s.wordFaultAddr (s.sp - 2).toNat, acc⟩ := by
  by_cases h : s.pushOk
  · rw [push16_of_pushOk h]; exact ⟨nofun, fun e => absurd h e.1⟩
  · rw [push16_of_not_pushOk h, Except.error.injEq, eq_comm]; exact ⟨fun e => ⟨h, e⟩, And.right⟩

theorem pop16_eq_ok {r : Word × State} :
    s.pop16 = .ok r ↔ s.popOk ∧
      r = (concat (s.mem.read (s.sp.toNat + 1)) (s.mem.read s.sp.toNat), { s with sp := s.sp + 2 }) := by
  by_cases h : s.popOk
  · rw [pop16_of_popOk h, Except.ok.injEq, eq_comm]; exact ⟨fun e => ⟨h, e⟩, And.right⟩
  · rw [pop16_of_not_popOk h]; exact ⟨nofun, fun e => absurd e.1 h⟩

theorem pop16_eq_error : s.pop16 = .error f ↔ ¬ s.popOk ∧ f = ⟨s.wordFaultAddr s.sp.toNat, .read⟩ := by
  by_cases h : s.popOk
  · rw [pop16_of_popOk h]; exact ⟨nofun, fun e => absurd h e.1⟩
  · rw [pop16_of_not_popOk h, Except.error.injEq, eq_comm]; exact ⟨fun e => ⟨h, e⟩, And.right⟩

theorem readR8_eq_ok {o : R8} : s.readR8 o = .ok v ↔ s.r8Ok o ∧ v = s.r8Value o := by
  cases o with
  | reg r => simp [State.readR8, State.r8Value, eq_comm]
  | m => simpa [State.readR8, State.r8Value] using memRead1_eq_ok

theorem readR8_eq_error {o : R8} :
    s.readR8 o = .error f ↔ o = .m ∧ ¬ s.inRange s.hl.toNat ∧ f = ⟨s.hl.toNat, .read⟩ := by
  cases o with
  | reg r => simp [State.readR8]
  | m => simpa [State.readR8] using memRead1_eq_error

/-! What a store leaves, seen through reads. -/

theorem storedByte_write (h : t.mem = s.mem.write x v) : s.storedByte t x v := by
  refine ⟨?_, fun y hy => ?_⟩
  · rw [h]; simp
  · rw [h]; exact Memory.read_write_other _ _ _ _ hy

theorem storedWord_write {hi lo : Byte} (h : t.mem = (s.mem.write x lo).write (x + 1) hi) : s.storedWord t x hi lo := by
  refine ⟨?_, ?_, fun y h0 h1 => ?_⟩
  · rw [h, Memory.read_write_other _ _ _ _ (by omega)]; simp
  · rw [h]; simp
  · rw [h, Memory.read_write_other _ _ _ _ h1, Memory.read_write_other _ _ _ _ h0]

/-! Pairs (R22). -/

@[simp] theorem getPair_setPair (s : State) (p : Pair) (w : Word) : (s.setPair p w).getPair p = w := by
  cases p <;> simp [State.getPair, State.setPair, getReg_setReg, pairHi, pairLo]

@[simp] theorem getRP_setRP (s : State) (o : PairSP) (w : Word) : (s.setRP o w).getRP o = w := by
  cases o <;> simp [State.getRP, State.setRP]

/-! Completion (R125, R126, R243). -/

/-- All that `finish` can answer: a fault taken, the central advance, or a transfer. -/
theorem finish_next {i : Instr} {e : Except AccessFault Effect} (h : finish i s e = .next t) :
    (∃ f, e = .error f ∧ t = s.takeFault (.addressOutOfRange s.pc (some i.opcode) f.addr f.access)) ∨
    (∃ u, e = .ok (.advance u) ∧ t = { u with pc := s.pc + BitVec.ofNat 16 i.length, cycles := s.cycles + i.cost }) ∨
    (∃ u target, e = .ok (.redirect u target) ∧ t = { u with pc := target, cycles := s.cycles + i.costTaken }) := by
  match e with
  | .error f => exact .inl ⟨f, rfl, by simpa [finish] using h.symm⟩
  | .ok (.advance u) => exact .inr (.inl ⟨u, rfl, by simpa [finish] using h.symm⟩)
  | .ok (.redirect u target) => exact .inr (.inr ⟨u, target, rfl, by simpa [finish] using h.symm⟩)

/-! Fetching (R123, R124). -/

/-- The bytes that `readOperands` gives are those in memory, all in range. -/
theorem readOperands_eq_ok {vs : List Byte} {n : Nat} :
    s.readOperands x n = .ok vs ↔ vs.length = n ∧ s.holdsBytes x vs := by
  induction n generalizing x vs with
  | zero =>
    cases vs <;> simp [State.readOperands, State.holdsBytes]
  | succ n ih =>
    simp only [State.readOperands]
    by_cases h : s.inRange x
    · rw [memRead1_of_inRange h]
      cases vs with
      | nil =>
        cases h' : s.readOperands (x + 1) n <;> simp [bind, Except.bind, pure, Except.pure]
      | cons v vs =>
        have : (do let vs ← s.readOperands (x + 1) n; return s.mem.read x :: vs : Except AccessFault (List Byte))
            = .ok (v :: vs) ↔ s.mem.read x = v ∧ s.readOperands (x + 1) n = .ok vs := by
          cases h' : s.readOperands (x + 1) n <;> simp [bind, Except.bind, pure, Except.pure]
        refine this.trans ?_
        rw [ih]
        constructor
        · rintro ⟨h0, hl, hv⟩
          refine ⟨by simp [hl], fun k hk => ?_⟩
          cases k with
          | zero => exact ⟨h, h0⟩
          | succ k =>
            have := hv k (by simpa using hk)
            rw [show x + 1 + k = x + (k + 1) by omega] at this
            exact this
        · rintro ⟨hl, hv⟩
          refine ⟨(hv 0 (by simp)).2, by simpa using hl, fun k hk => ?_⟩
          have := hv (k + 1) (by simpa using hk)
          rw [show x + (k + 1) = x + 1 + k by omega] at this
          exact this
    · rw [memRead1_of_not_inRange h]
      constructor
      · intro h'; exact absurd h' (by simp [bind, Except.bind])
      · rintro ⟨hl, hv⟩
        cases vs with
        | nil => simp at hl
        | cons v vs => exact absurd (hv 0 (by simp)).1 h

end Sys2Proof.Machine
end

