-- ==== Sys2Proof/Tests/Slice0.lean ====
section
/-! SUPPORT. Tests: each expected value is the spec's own (the rules' worked examples and 95_test_vectors.md, whose row is named), and
each word is written out from the encodings of 30_encoding.md. Then, for every statement with hypotheses, a witness that they can
be met, one for each clause. -/

namespace Sys2Proof.Tests

open Sys2Proof.Machine

/-! Well-formedness: each check refuses a term. -/

theorem test_wf_t8080_refuses_a_bound_byte_as_unimplemented : (Instr.unimplemented 0x00).wf .t8080 = false := by decide

theorem test_wf_tsrc_refuses_an_instruction_outside_the_source : Instr.hlt.wf .tsrc = false ∧ (Instr.lxi .sp 0).wf .tsrc = false ∧
    (Instr.stax .de).wf .tsrc = false ∧ (Instr.dcr .m).wf .tsrc = false ∧ (Instr.dad (.pair .hl)).wf .tsrc = false := by decide

theorem test_wf_tsrc_refuses_a_source_byte_as_unimplemented : (Instr.unimplemented 0x01).wf .tsrc = false := by decide

theorem test_wf_accepts : Instr.hlt.wf .t8080 = true ∧ (Instr.unimplemented 0xFD).wf .t8080 = true ∧
    (Instr.dad (.pair .bc)).wf .tsrc = true ∧ (Instr.unimplemented 0x76).wf .tsrc = true := by decide

/-! Decoding: a word of every constructor. -/

/-- The bytes decode, under `T8080`, to the instruction, with nothing left over. -/
def reads (bytes : List Byte) (i : Instr) : Bool :=
  match decode .t8080 bytes with
  | .ok (j, rest) => decide (j = i) && rest.isEmpty
  | .error _ => false

theorem test_decode_transfer :
    reads [0b01111000] (.movRR .a .b) ∧ reads [0b01010110] (.movRM .d) ∧ reads [0b01110011] (.movMR .e) ∧
    reads [0b00101110, 0x7F] (.mviR .l 0x7F) ∧ reads [0b00110110, 0xFF] (.mviM 0xFF) ∧
    reads [0b00100001, 0x03, 0x01] (.lxi (.pair .hl) 0x0103) ∧ reads [0b00110001, 0x00, 0x24] (.lxi .sp 0x2400) ∧
    reads [0b00111010, 0x00, 0x03] (.lda 0x0300) ∧ reads [0b00110010, 0xB3, 0x05] (.sta 0x05B3) ∧
    reads [0b00101010, 0x5B, 0x02] (.lhld 0x025B) ∧ reads [0b00100010, 0x0A, 0x01] (.shld 0x010A) ∧
    reads [0b00001010] (.ldax .bc) ∧ reads [0b00011010] (.ldax .de) ∧ reads [0b00000010] (.stax .bc) ∧
    reads [0b00010010] (.stax .de) ∧ reads [0b11101011] .xchg := by decide

theorem test_decode_arithmetic :
    reads [0b10000000] (.add (.reg .b)) ∧ reads [0b10001110] (.adc .m) ∧ reads [0b10010001] (.sub (.reg .c)) ∧
    reads [0b10011101] (.sbb (.reg .l)) ∧ reads [0b11000110, 0x42] (.adi 0x42) ∧ reads [0b11001110, 0x42] (.aci 0x42) ∧
    reads [0b11010110, 0x01] (.sui 0x01) ∧ reads [0b11011110, 0x01] (.sbi 0x01) ∧ reads [0b00111100] (.inr (.reg .a)) ∧
    reads [0b00110101] (.dcr .m) ∧ reads [0b00010011] (.inx (.pair .de)) ∧ reads [0b00111011] (.dcx .sp) ∧
    reads [0b00100111] .daa ∧ reads [0b00101001] (.dad (.pair .hl)) := by decide

theorem test_decode_logical :
    reads [0b10100001] (.ana (.reg .c)) ∧ reads [0b10101111] (.xra (.reg .a)) ∧ reads [0b10110110] (.ora .m) ∧
    reads [0b10111011] (.cmp (.reg .e)) ∧ reads [0b11100110, 0x0F] (.ani 0x0F) ∧ reads [0b11101110, 0x81] (.xri 0x81) ∧
    reads [0b11110110, 0x0F] (.ori 0x0F) ∧ reads [0b11111110, 0x40] (.cpi 0x40) ∧ reads [0b00000111] .rlc ∧
    reads [0b00001111] .rrc ∧ reads [0b00010111] .ral ∧ reads [0b00011111] .rar ∧ reads [0b00101111] .cma ∧
    reads [0b00111111] .cmc ∧ reads [0b00110111] .stc := by decide

theorem test_decode_jump :
    reads [0b11000011, 0x34, 0x12] (.jmp 0x1234) ∧ reads [0b11000010, 0x34, 0x12] (.jnz 0x1234) ∧
    reads [0b11001010, 0x34, 0x12] (.jz 0x1234) ∧ reads [0b11010010, 0x34, 0x12] (.jnc 0x1234) ∧
    reads [0b11011010, 0x34, 0x12] (.jc 0x1234) ∧ reads [0b11100010, 0x34, 0x12] (.jpo 0x1234) ∧
    reads [0b11101010, 0x34, 0x12] (.jpe 0x1234) ∧ reads [0b11110010, 0x34, 0x12] (.jp 0x1234) ∧
    reads [0b11111010, 0x34, 0x12] (.jm 0x1234) ∧ reads [0b11101001] .pchl := by decide

theorem test_decode_call :
    reads [0b11001101, 0x34, 0x12] (.call 0x1234) ∧ reads [0b11000100, 0x34, 0x12] (.cnz 0x1234) ∧
    reads [0b11001100, 0x34, 0x12] (.cz 0x1234) ∧ reads [0b11010100, 0x34, 0x12] (.cnc 0x1234) ∧
    reads [0b11011100, 0x34, 0x12] (.cc 0x1234) ∧ reads [0b11100100, 0x34, 0x12] (.cpo 0x1234) ∧
    reads [0b11101100, 0x34, 0x12] (.cpe 0x1234) ∧ reads [0b11110100, 0x34, 0x12] (.cp 0x1234) ∧
    reads [0b11111100, 0x34, 0x12] (.cm 0x1234) ∧ reads [0b11011111] (.rst 3) := by decide

theorem test_decode_return :
    reads [0b11001001] .ret ∧ reads [0b11000000] .rnz ∧ reads [0b11001000] .rz ∧ reads [0b11010000] .rnc ∧
    reads [0b11011000] .rc ∧ reads [0b11100000] .rpo ∧ reads [0b11101000] .rpe ∧ reads [0b11110000] .rp ∧
    reads [0b11111000] .rm := by decide

theorem test_decode_stack_and_control :
    reads [0b11010101] (.push .de) ∧ reads [0b11110101] .pushPsw ∧ reads [0b11100001] (.pop .hl) ∧
    reads [0b11110001] .popPsw ∧ reads [0b11100011] .xthl ∧ reads [0b11111001] .sphl ∧ reads [0b11011011, 0x10] (.inp 0x10) ∧
    reads [0b11010011, 0x10] (.out 0x10) ∧ reads [0b11111011] .ei ∧ reads [0b11110011] .di ∧ reads [0b00000000] .nop ∧
    reads [0b01110110] .hlt ∧ reads [0b11001011] (.unimplemented 0xCB) := by decide

theorem test_decode_refuses_missing_operands :
    decode .t8080 [] = .error .noOpcode ∧ decode .t8080 [0x3E] = .error (.operandsMissing 0x3E) ∧
    decode .t8080 [0xC3, 0x00] = .error (.operandsMissing 0xC3) ∧ decodeTableWord 8 0xC3 = some (.jmp 0) := ⟨rfl, rfl, rfl, rfl⟩

/-! Single steps. -/

/-- The start state of 95_test_vectors.md with the bytes at 0x0100 and `pc` there. -/
def prog (bytes : List Byte) : State := { State.reset with pc := 0x0100, mem := Memory.writeAll [] 0x0100 bytes }

/-- The state with one byte of memory set. -/
def with1 (s : State) (x : Nat) (v : Byte) : State := { s with mem := s.mem.write x v }

/-- A machine of 256 bytes, so HL, BC and DE are one past the end and SP lets neither a push nor a pop succeed. -/
def small : State := { State.reset with cfg := { memSize := 0x100 }, b := 1, d := 1, h := 1, sp := 0x0101 }

/-- Five flags in the order of the flag byte: S Z AC P CY. -/
def flags (s z ac p cy : Nat) : Flags := { s := s == 1, z := z == 1, ac := ac == 1, p := p == 1, cy := cy == 1 }

/-- What a test looks at in the next state, if there is one. -/
def look {α : Type} (o : Host.Outcome State Fault Refusal) (f : State → α) : Option α :=
  match o with
  | .next t => some (f t)
  | _ => none

-- X1 with S1; X3.
theorem test_nop : look (step (prog [0x00])) (fun t => (t.pc, t.status, t.cycles)) = some (0x0101, .running, 4) := by decide
theorem test_hlt : look (step (prog [0x76])) (fun t => (t.pc, t.status, t.cycles)) = some (0x0101, .halted, 7) := by decide
-- X6, X7.
theorem test_fetch_fault : look (step { small with pc := 0x0100 }) (fun t => (t.pc, t.status, t.fault)) =
    some (0x0100, .faulted, some (.addressOutOfRange 0x0100 none 0x100 .fetch)) := by decide
theorem test_operand_fault : look (step (with1 { small with pc := 0x00FF } 0xFF 0x3E)) (fun t => (t.pc, t.a, t.fault)) =
    some (0x00FF, 0x00, some (.addressOutOfRange 0x00FF (some 0x3E) 0x100 .operand)) := by decide
-- E1, E2.
theorem test_unimplemented : look (step { prog [0x08] with a := 1 }) (fun t => (t.a, t.pc, t.status, t.cycles, t.fault)) =
    some (0x01, 0x0100, .faulted, 0, some (.unimplementedOpcode 0x0100 0x08)) := by decide
theorem test_unimplemented_is_no_jump : look (step (prog [0xCB, 0x00, 0x20])) (fun t => (t.pc, t.status)) =
    some (0x0100, .faulted) := by decide
-- E8, E10, E13.
theorem test_interrupt_entry : look (step (with1 { State.reset with pc := 0x1234, sp := 0x2400, inte := true, pending := some 7 } 0x1234 0x08))
    (fun t => ((t.mem.read 0x23FE, t.mem.read 0x23FF, t.sp, t.pc), t.inte, t.pending, t.cycles)) =
    some ((0x34, 0x12, 0x23FE, 0x0038), false, none, 11) := by decide
theorem test_interrupt_entry_fault : look (step { prog [0x00] with sp := 0x0001, inte := true, pending := some 2 })
    (fun t => (t.sp, t.pc, t.inte, t.pending, t.fault)) =
    some (0x0001, 0x0100, true, some 2, some (.addressOutOfRange 0x0100 none 0x10000 .interrupt)) := by decide

-- T1, T3, T5, T4.
theorem test_mov : look (step { prog [0x41] with b := 0x11, c := 0x22 }) (fun t => (t.b, t.c, t.pc, t.cycles)) =
    some (0x22, 0x22, 0x0101, 5) := by decide
theorem test_mov_from_memory : look (step (with1 { prog [0x6E] with h := 0x20, l := 0x10 } 0x2010 0x44)) (fun t => (t.h, t.l)) =
    some (0x20, 0x44) := by decide
theorem test_mov_to_memory : look (step { prog [0x77] with a := 0x5A, h := 0x20, l := 0x10 })
    (fun t => (t.mem.read 0x2010, t.cycles)) = some (0x5A, 7) := by decide
theorem test_mov_to_memory_fault : look (step (with1 { small with a := 0x5A } 0 0x77)) (fun t => (t.pc, t.mem.read 0x100, t.fault)) =
    some (0x0000, 0x00, some (.addressOutOfRange 0x0000 (some 0x77) 0x100 .write)) := by decide
-- T6, T7.
theorem test_mvi : look (step (prog [0x1E, 0xFE])) (fun t => (t.e, t.pc, t.cycles)) = some (0xFE, 0x0102, 7) := by decide
theorem test_mvi_memory : look (step { prog [0x36, 0x3C] with h := 0x30 }) (fun t => (t.mem.read 0x3000, t.cycles)) =
    some (0x3C, 10) := by decide
-- S2, T8.
theorem test_lxi : look (step (prog [0x01, 0x01, 0x02])) (fun t => (t.c, t.b, t.pc)) = some (0x01, 0x02, 0x0103) := by decide
theorem test_lxi_sp : look (step (prog [0x31, 0x00, 0x24])) (fun t => (t.sp, t.cycles)) = some (0x2400, 10) := by decide
-- T10, T12, T13, T15, T16.
theorem test_lda : look (step (with1 (prog [0x3A, 0x00, 0x03]) 0x0300 0x7B)) (fun t => (t.a, t.cycles)) = some (0x7B, 13) := by decide
theorem test_sta : look (step { prog [0x32, 0xB3, 0x05] with a := 0xEE }) (fun t => (t.mem.read 0x05B3, t.cycles)) =
    some (0xEE, 13) := by decide
theorem test_lhld : look (step (with1 (with1 (prog [0x2A, 0x5B, 0x02]) 0x025B 0xFF) 0x025C 0x03)) (fun t => (t.l, t.h, t.cycles)) =
    some (0xFF, 0x03, 16) := by decide
theorem test_shld : look (step { prog [0x22, 0x0A, 0x01] with h := 0xAE, l := 0x29 })
    (fun t => (t.mem.read 0x010A, t.mem.read 0x010B, t.cycles)) = some (0x29, 0xAE, 16) := by decide
theorem test_shld_writes_nothing_at_the_top : look (step { prog [0x22, 0xFF, 0xFF] with h := 0xAE, l := 0x29 })
    (fun t => (t.mem.read 0xFFFF, t.fault)) =
    some (0x00, some (.addressOutOfRange 0x0100 (some 0x22) 0x10000 .write)) := by decide
-- T17, T19, T21.
theorem test_ldax : look (step (with1 { prog [0x1A] with d := 0x93, e := 0x8B } 0x938B 0x42)) (fun t => (t.a, t.cycles)) =
    some (0x42, 7) := by decide
theorem test_stax : look (step { prog [0x12] with a := 0x33, d := 0x40, e := 0x01 }) (fun t => (t.mem.read 0x4001, t.cycles)) =
    some (0x33, 7) := by decide
theorem test_xchg : look (step { prog [0xEB] with d := 0x33, e := 0x55, l := 0xFF }) (fun t => (t.d, t.e, t.h, t.l)) =
    some (0x00, 0xFF, 0x33, 0x55) := by decide

/-- A and the flags after one step. -/
def accAfter (s : State) : Option (Byte × Flags) := look (step s) fun t => (t.a, t.fl)

-- A1, A5; A9, A10; A11, A12; A7.
theorem test_add : accAfter { prog [0x82] with a := 0x6C, d := 0x2E } = some (0x9A, flags 1 0 1 1 0) := by decide
theorem test_add_memory : accAfter (with1 { prog [0x86] with a := 0x7F, h := 0x02 } 0x0200 0x01) =
    some (0x80, flags 1 0 1 0 0) := by decide
theorem test_adc : accAfter { prog [0x89] with a := 0x42, c := 0x3D, fl := flags 0 0 0 0 1 } =
    some (0x80, flags 1 0 1 0 0) := by decide
theorem test_adc_carries : accAfter { prog [0x88] with a := 0xFF, fl := flags 0 0 0 0 1 } = some (0x00, flags 0 1 1 1 1) := by decide
theorem test_adi : accAfter { prog [0xC6, 0xBE] with a := 0x56 } = some (0x14, flags 0 0 1 1 1) := by decide
theorem test_aci : accAfter { prog [0xCE, 0x42] with a := 0x14, fl := flags 0 0 0 0 1 } = some (0x57, flags 0 0 0 0 0) := by decide
-- A13, A15; A17; A19, A20; A23.
theorem test_sub_self : accAfter { prog [0x97] with a := 0x3E, fl := flags 0 0 0 0 1 } = some (0x00, flags 0 1 1 1 0) := by decide
theorem test_sub_nibble_borrow : accAfter { prog [0x90] with a := 0x10, b := 0x01 } = some (0x0F, flags 0 0 0 1 0) := by decide
theorem test_sui : accAfter (prog [0xD6, 0x01]) = some (0xFF, flags 1 0 0 1 1) := by decide
theorem test_sbb : accAfter { prog [0x9D] with a := 0x04, l := 0x02, fl := flags 0 0 0 0 1 } = some (0x01, flags 0 0 1 0 0) := by decide
theorem test_sbb_borrows : accAfter { prog [0x98] with b := 0xFF, fl := flags 0 0 0 0 1 } = some (0x00, flags 0 1 0 1 1) := by decide
theorem test_sbi : accAfter { prog [0xDE, 0x01] with fl := flags 0 0 0 0 1 } = some (0xFE, flags 1 0 0 0 1) := by decide
-- A25, A29; S4 with A31, A32.
theorem test_inr : accAfter { prog [0x3C] with a := 0xFF, fl := flags 0 0 0 0 1 } = some (0x00, flags 0 1 1 1 1) := by decide
theorem test_inr_memory : look (step (with1 { prog [0x34] with h := 0x3A, l := 0x7C } 0x3A7C 0x40))
    (fun t => (t.mem.read 0x3A7C, t.fl, t.cycles)) = some (0x41, flags 0 0 0 1 0, 10) := by decide
theorem test_dcr : look (step { prog [0x05] with b := 0x01, fl := flags 0 0 0 0 1 }) (fun t => (t.b, t.fl)) =
    some (0x00, flags 0 1 1 1 1) := by decide
theorem test_dcr_below_zero : look (step (prog [0x05])) (fun t => (t.b, t.fl)) = some (0xFF, flags 1 0 0 1 0) := by decide
-- A39, A40; A41, A42.
theorem test_inx : look (step { prog [0x23] with h := 0xFF, l := 0xFF }) (fun t => (t.h, t.l, t.fl)) =
    some (0x00, 0x00, flags 0 0 0 0 0) := by decide
theorem test_inx_sp : look (step { prog [0x33] with sp := 0xFFFF }) (fun t => (t.sp, t.cycles)) = some (0x0000, 5) := by decide
theorem test_dcx : look (step { prog [0x2B] with h := 0x98 }) (fun t => (t.h, t.l)) = some (0x97, 0xFF) := by decide
theorem test_dcx_below_zero : look (step { prog [0x0B] with fl := flags 0 1 0 0 0 }) (fun t => (t.b, t.c, t.fl)) =
    some (0xFF, 0xFF, flags 0 1 0 0 0) := by decide
-- A49, A52; A44, A47.
theorem test_daa : accAfter { prog [0x27] with a := 0x9B } = some (0x01, flags 0 0 1 0 1) := by decide
theorem test_daa_carry_kept : accAfter { prog [0x27] with a := 0x99, fl := flags 0 0 0 0 1 } = some (0xF9, flags 1 0 0 1 1) := by decide
theorem test_dad : look (step { prog [0x09] with b := 0x33, c := 0x9F, h := 0xA1, l := 0x7B, fl := flags 1 1 1 1 0 })
    (fun t => (t.h, t.l, t.fl)) = some (0xD5, 0x1A, flags 1 1 1 1 0) := by decide
theorem test_dad_sp : look (step { prog [0x39] with l := 0x01, sp := 0xFFFF }) (fun t => (t.h, t.l, t.sp, t.fl)) =
    some (0x00, 0x00, 0xFFFF, flags 0 0 0 0 1) := by decide

-- G1, G2; G7; G9; G10; G11; G13.
theorem test_ana : accAfter { prog [0xA1] with a := 0xFC, c := 0x0F, fl := flags 0 0 0 0 1 } = some (0x0C, flags 0 0 1 1 0) := by decide
theorem test_ana_clear : accAfter { prog [0xA1] with cfg := { anaAc := .clear }, a := 0xFC, c := 0x0F, fl := flags 0 0 1 0 1 } =
    some (0x0C, flags 0 0 0 1 0) := by decide
theorem test_ani : accAfter (prog [0xE6, 0x08]) = some (0x00, flags 0 1 1 1 0) := by decide
theorem test_xra : accAfter { prog [0xA8] with a := 0xFF, b := 0x0F, fl := flags 0 0 1 0 1 } = some (0xF0, flags 1 0 0 1 0) := by decide
theorem test_xri : accAfter { prog [0xEE, 0x81] with a := 0x3B, fl := flags 0 0 0 0 1 } = some (0xBA, flags 1 0 0 0 0) := by decide
theorem test_ora : accAfter { prog [0xB1] with a := 0x33, c := 0x0F, fl := flags 0 0 1 0 1 } = some (0x3F, flags 0 0 0 1 0) := by decide
theorem test_ori : accAfter { prog [0xF6, 0x0F] with a := 0xB5, fl := flags 0 0 0 0 1 } = some (0xBF, flags 1 0 0 0 0) := by decide
-- G15, G16; G19.
theorem test_cmp_below : accAfter { prog [0xBB] with a := 0x02, e := 0x05 } = some (0x02, flags 1 0 0 0 1) := by decide
theorem test_cmp_is_unsigned : accAfter { prog [0xBB] with a := 0xE5, e := 0x05 } = some (0xE5, flags 1 0 1 0 0) := by decide
theorem test_cpi : accAfter { prog [0xFE, 0x40] with a := 0x4A } = some (0x4A, flags 0 0 1 1 0) := by decide
-- G21, G22; G23, G24; G25, G26; G27, G28.
theorem test_rlc : accAfter { prog [0x07] with a := 0xF2, fl := flags 1 1 1 1 0 } = some (0xE5, flags 1 1 1 1 1) := by decide
theorem test_rlc_clears_carry : accAfter { prog [0x07] with fl := flags 0 0 0 0 1 } = some (0x00, flags 0 0 0 0 0) := by decide
theorem test_rrc : accAfter { prog [0x0F] with a := 0xF2, fl := flags 0 0 0 0 1 } = some (0x79, flags 0 0 0 0 0) := by decide
theorem test_rrc_wraps : accAfter { prog [0x0F] with a := 0x01 } = some (0x80, flags 0 0 0 0 1) := by decide
theorem test_ral : accAfter { prog [0x17] with a := 0xB5 } = some (0x6A, flags 0 0 0 0 1) := by decide
theorem test_ral_shifts_carry_in : accAfter { prog [0x17] with fl := flags 0 0 0 0 1 } = some (0x01, flags 0 0 0 0 0) := by decide
theorem test_rar : accAfter { prog [0x1F] with a := 0x6A, fl := flags 0 0 0 0 1 } = some (0xB5, flags 0 0 0 0 0) := by decide
theorem test_rar_shifts_carry_out : accAfter { prog [0x1F] with a := 0x01 } = some (0x00, flags 0 0 0 0 1) := by decide
-- G29, G30, G32.
theorem test_cma : accAfter { prog [0x2F] with a := 0x51, fl := flags 0 1 0 0 1 } = some (0xAE, flags 0 1 0 0 1) := by decide
theorem test_cmc : accAfter { prog [0x3F] with fl := flags 0 1 0 0 1 } = some (0x00, flags 0 1 0 0 0) := by decide
theorem test_stc : accAfter { prog [0x37] with fl := flags 0 0 1 0 0 } = some (0x00, flags 0 0 1 0 1) := by decide

/-- `pc`, SP, the byte at SP, the one after it, and the cycles after one step. -/
def flowAfter (s : State) : Option (Word × Word × Byte × Byte × Nat) :=
  look (step s) fun t => (t.pc, t.sp, t.mem.read t.sp.toNat, t.mem.read (t.sp.toNat + 1), t.cycles)

/-- `flowAfter` is as given. -/
def flows (s : State) (pc sp : Word) (lo hi : Byte) (cycles : Nat) : Bool := flowAfter s == some (pc, sp, lo, hi, cycles)

/-- The opcodes of one kind with flags on which they transfer and flags on which they do not, conditions in the order of R97. -/
def conds (ops : List Byte) : List (Byte × Flags × Flags) :=
  ops.zip [(flags 1 0 1 1 1, flags 0 1 0 0 0), (flags 0 1 0 0 0, flags 1 0 1 1 1), (flags 1 1 1 1 0, flags 0 0 0 0 1),
    (flags 0 0 0 0 1, flags 1 1 1 1 0), (flags 1 1 1 0 1, flags 0 0 0 1 0), (flags 0 0 0 1 0, flags 1 1 1 0 1),
    (flags 0 1 1 1 1, flags 1 0 0 0 0), (flags 1 0 0 0 0, flags 0 1 1 1 1)]

-- B1; B2 to B11.
theorem test_jmp : flowAfter (prog [0xC3, 0x00, 0x3E]) = some (0x3E00, 0x0000, 0, 0, 10) := by decide
theorem test_jump_conditions : ((conds [0xC2, 0xCA, 0xD2, 0xDA, 0xE2, 0xEA, 0xF2, 0xFA]).all fun x =>
    flows { prog [x.1, 0x34, 0x12] with fl := x.2.1 } 0x1234 0x0000 0 0 10 &&
    flows { prog [x.1, 0x34, 0x12] with fl := x.2.2 } 0x0103 0x0000 0 0 10) = true := by decide
-- B15, B16, B17; B19 to B22.
theorem test_call : flowAfter { prog [0xCD, 0x00, 0x20] with sp := 0x2400 } = some (0x2000, 0x23FE, 0x03, 0x01, 17) := by decide
theorem test_call_fault : look (step { prog [0xCD, 0x00, 0x20] with sp := 0x0001 }) (fun t => (t.sp, t.pc, t.fault)) =
    some (0x0001, 0x0100, some (.addressOutOfRange 0x0100 (some 0xCD) 0x10000 .write)) := by decide
theorem test_call_conditions : ((conds [0xC4, 0xCC, 0xD4, 0xDC, 0xE4, 0xEC, 0xF4, 0xFC]).all fun x =>
    flows { prog [x.1, 0x00, 0x20] with fl := x.2.1, sp := 0x2400 } 0x2000 0x23FE 0x03 0x01 17 &&
    flows { prog [x.1, 0x00, 0x20] with fl := x.2.2, sp := 0x0001 } 0x0103 0x0001 0 0 11) = true := by decide
-- B25; B26 to B28.
theorem test_ret : flowAfter (with1 (with1 { prog [0xC9] with sp := 0xFFFE } 0xFFFE 0x34) 0xFFFF 0x12) =
    some (0x1234, 0x0000, 0, 0, 10) := by decide
theorem test_return_conditions : ((conds [0xC0, 0xC8, 0xD0, 0xD8, 0xE0, 0xE8, 0xF0, 0xF8]).all fun x =>
    flows (with1 (with1 { prog [x.1] with fl := x.2.1, sp := 0x23FE } 0x23FE 0x03) 0x23FF 0x01) 0x0103 0x2400 0 0 11 &&
    flows { prog [x.1] with fl := x.2.2, sp := 0xFFFF } 0x0101 0xFFFF 0 0 5) = true := by decide
-- B31 with another vector, B29; B32.
theorem test_rst : flowAfter { prog [0xDF] with sp := 0x2400 } = some (0x0018, 0x23FE, 0x01, 0x01, 11) := by decide
theorem test_rst_is_no_interrupt : look (step { prog [0xC7] with sp := 0x2400, inte := true }) (fun t => (t.pc, t.inte)) =
    some (0x0000, true) := by decide
theorem test_pchl : flowAfter { prog [0xE9] with h := 0x41, l := 0x3E } = some (0x413E, 0x0000, 0, 0, 5) := by decide

-- K1, K2; K4, K6; K7, K9; K10, K11.
theorem test_push : flowAfter { prog [0xD5] with d := 0x8F, e := 0x9D, sp := 0x3A2C } = some (0x0101, 0x3A2A, 0x9D, 0x8F, 11) := by decide
theorem test_push_fault : look (step { prog [0xC5] with b := 1, sp := 0x0001 }) (fun t => (t.sp, t.mem.read 0xFFFF, t.fault)) =
    some (0x0001, 0x00, some (.addressOutOfRange 0x0100 (some 0xC5) 0x10000 .write)) := by decide
theorem test_push_psw : flowAfter { prog [0xF5] with a := 0x1F, fl := flags 0 1 0 1 1, sp := 0x502A } =
    some (0x0101, 0x5028, 0x47, 0x1F, 11) := by decide
theorem test_push_psw_constant_bit : flowAfter { prog [0xF5] with sp := 0x502A } = some (0x0101, 0x5028, 0x02, 0x00, 11) := by decide
theorem test_pop : look (step (with1 (with1 { prog [0xE1] with sp := 0x1239 } 0x1239 0x3D) 0x123A 0x93)) (fun t => (t.l, t.h, t.sp)) =
    some (0x3D, 0x93, 0x123B) := by decide
theorem test_pop_fault : look (step { prog [0xD1] with sp := 0xFFFF }) (fun t => (t.sp, t.fault)) =
    some (0xFFFF, some (.addressOutOfRange 0x0100 (some 0xD1) 0x10000 .read)) := by decide
theorem test_pop_psw : accAfter (with1 (with1 { prog [0xF1] with sp := 0x2C00 } 0x2C00 0xC3) 0x2C01 0xFF) =
    some (0xFF, flags 1 1 0 0 1) := by decide
theorem test_pop_psw_ignores_reserved_bits :
    accAfter (with1 (with1 { prog [0xF1] with sp := 0x2C00, fl := flags 1 1 1 1 1 } 0x2C00 0x28) 0x2C01 0x12) =
    some (0x12, flags 0 0 0 0 0) := by decide
-- K14, K15; K16.
theorem test_xthl : look (step (with1 (with1 { prog [0xE3] with h := 0x0B, l := 0x3C, sp := 0x10AD } 0x10AD 0xF0) 0x10AE 0x0D))
    (fun t => (t.h, t.l, t.mem.read 0x10AD, t.mem.read 0x10AE, t.sp, t.cycles)) =
    some (0x0D, 0xF0, 0x3C, 0x0B, 0x10AD, 18) := by decide
theorem test_xthl_fault : look (step { prog [0xE3] with h := 0x0B, l := 0x3C, sp := 0xFFFF })
    (fun t => (t.h, t.l, t.mem.read 0xFFFF, t.status)) = some (0x0B, 0x3C, 0x00, .faulted) := by decide
theorem test_sphl : look (step { prog [0xF9] with h := 0x50, l := 0x6C }) (fun t => (t.sp, t.cycles)) = some (0x506C, 5) := by decide
-- K17: the byte is the host's answer, whatever it is; K18.
theorem test_in : look (step { prog [0xDB, 0x10] with fl := flags 0 1 0 0 0, portReads := 3 })
    (fun t => (t.fl, t.pc, t.portReads, t.cycles)) = some (flags 0 1 0 0 0, 0x0102, 4, 10) := by decide
theorem test_in_takes_the_answer : look (exec (.inp 0x10) { State.reset with portReads := 3 }) (fun t => t.a) =
    some (Config.portIn 0x10 3) := rfl
theorem test_out : look (step { prog [0xD3, 0x10] with a := 0x77, portWrites := [(1, 2)] }) (fun t => (t.a, t.pc, t.portWrites)) =
    some (0x77, 0x0102, [(1, 2), (0x10, 0x77)]) := by decide
-- K19, K20.
theorem test_ei : look (step { prog [0xFB] with pending := some 2 }) (fun t => (t.inte, t.pending, t.pc)) =
    some (true, some 2, 0x0101) := by decide
theorem test_di : look (step { prog [0xF3] with inte := true }) (fun t => (t.inte, t.cycles)) = some (false, 4) := by decide

/-! The host's operations: H1, H2, H4, E11, E12, H8, and the program of 3.8 through `run_until_halt`. -/

theorem test_load : look (match hostLoad [1, 2, 3] 0xFD small with | .ok t => .next t | .error _ => .refused (.stepRefused .faulted))
    (fun t => t.mem) = some [(0xFD, 1), (0xFE, 2), (0xFF, 3)] := by decide
theorem test_load_refused : hostLoad [1, 2, 3] 0xFE small = .error .loadOutOfRange := rfl
theorem test_new_refused : hostNew 0 .t8080 .orBit3 .zero = .error .sizeRefused ∧
    hostNew 65537 .t8080 .orBit3 .zero = .error .sizeRefused := ⟨rfl, rfl⟩
theorem test_inject : (hostAct (hostAct (hostAct small (.inject 3)) (.inject 5)) (.inject 8)).pending = some 5 := by decide
theorem test_peek_refused : hostPeek 0x100 small = .error .addressRefused := rfl
theorem test_self_modifying_program :
    let t := runUntilHalt 6 (prog [0x3E, 0x3C, 0x32, 0x05, 0x01, 0x00, 0x76])
    (t.a, t.pc, t.status, t.cycles) = (0x3D, 0x0107, .halted, 32) := by decide

/-! What the host's fetch test places is what the next step runs, in any status. -/

theorem test_fetch_word_runs : look (step ({ small with status := .faulted, inte := true, pending := some 1 }.withFetchWord 24 0x1234C3))
    (fun t => t.pc) = some 0x1234 := by decide

/-! Witnesses: for each statement with hypotheses, states and operands that meet them, one for each clause, at the edges. -/

/-- The outcome is a next state of which `p` holds. -/
def gives (o : Host.Outcome State Fault Refusal) (p : State → Bool) : Bool :=
  match o with
  | .next t => p t
  | _ => false

theorem gives_next {o : Host.Outcome State Fault Refusal} {p : State → Bool} (h : gives o p = true) : ∃ t, o = .next t ∧ p t = true := by
  cases o with
  | next t => exact ⟨t, rfl, h⟩
  | fault r => exact nomatch r
  | refused r => simp [gives] at h

/-- A machine of 256 bytes, so HL, BC and DE are the last byte and a push just fits. -/
def edge : State := { State.reset with cfg := { memSize := 0x100 }, c := 0xFF, e := 0xFF, l := 0xFF, sp := 0x0100 }

/-- A machine of 256 bytes whose last two bytes are at SP. -/
def edgePop : State := { edge with sp := 0x00FE }

theorem witness_DecodeOfEncode : (Instr.lxi (.pair .bc) 0x1234).wf .tsrc = true ∧ (Instr.unimplemented 0x08).wf .t8080 = true ∧
    (Instr.xthl).wf .t8080 = true ∧ (Instr.unimplemented 0x09).wf .t8080 = false := by decide

theorem witness_EncodeOfDecode : decode .t8080 [0x3E, 0x12, 0x76] = .ok (.mviR .a 0x12, [0x76]) ∧
    decode .tsrc [0x3E, 0x12] = .ok (.unimplemented 0x3E, [0x12]) := ⟨rfl, rfl⟩

theorem witness_UnimplementedExactlyOnUnboundBytes : lookup .t8080 0x08 0 0 = .unimplemented 0x08 ∧
    lookup .t8080 0x09 0 0 = .dad (.pair .bc) ∧ lookup .tsrc 0x09 0 0 = .dad (.pair .bc) ∧
    lookup .tsrc 0x0A 0 0 = .unimplemented 0x0A := by decide

theorem witness_LengthsOfBoundOpcodes : (descriptor .t8080 0x01).map Descriptor.length = some 3 ∧
    (descriptor .t8080 0x06).map Descriptor.length = some 2 ∧ (descriptor .t8080 0xFF).map Descriptor.length = some 1 ∧
    descriptor .t8080 0x08 = none := by decide

theorem witness_StepRunsDecodedInstruction :
    let s := with1 { edge with pc := 0xFE } 0xFE 0x3E
    s.status = .running ∧ s.interruptDue = none ∧ s.holdsBytes s.pc.toNat [0x3E, 0x00] ∧
    decode s.cfg.table [0x3E, 0x00] = .ok (.mviR .a 0x00, []) := by
  refine ⟨rfl, rfl, ?_, rfl⟩; unfold State.holdsBytes; decide

theorem witness_StepByStatus : { edge with status := .halted }.status = .halted ∧ { edge with status := .faulted }.status = .faulted ∧
    edge.status = .running := ⟨rfl, rfl, rfl⟩

theorem witness_HaltedExactlyByHlt : (∃ t, step (with1 edge 0 0x76) = .next t ∧ decide (t.status = .halted) = true) ∧
    (with1 edge 0 0x76).runs .hlt ∧ ∃ t, step edge = .next t ∧ decide (t.status = .running) = true :=
  ⟨gives_next (by decide), ⟨rfl, rfl, rfl⟩, gives_next (by decide)⟩

theorem witness_InterruptEntryStep :
    let s := { edge with inte := true, pending := some 7 }
    let u := { s with sp := 0x0101 }
    s.status = .running ∧ s.inte = true ∧ s.pending = some 7 ∧ s.pushOk ∧ ¬ u.pushOk := by decide

theorem witness_PendingVectorWaitsWhileDisabled : edge.inte = false ∧ { edge with pending := some 3 }.inte = false := ⟨rfl, rfl⟩

theorem witness_FetchFaults :
    let s := { edge with pc := 0x0100 }
    let u := with1 { edge with pc := 0x00FF } 0xFF 0x3E
    let v := with1 { edge with pc := 0x00FE } 0xFE 0xC3
    (s.status = .running ∧ s.interruptDue = none ∧ ¬ s.inRange s.pc.toNat) ∧
    (u.inRange u.pc.toNat ∧ opcodeLength u.cfg.table (u.mem.read u.pc.toNat) = 2 ∧ ¬ u.inRange (u.pc.toNat + 1)) ∧
    (v.inRange (v.pc.toNat + 1) ∧ opcodeLength v.cfg.table (v.mem.read v.pc.toNat) = 3 ∧ ¬ v.inRange (v.pc.toNat + 2)) := by decide

theorem witness_UnimplementedOpcodeFaults :
    let s := with1 { edge with pc := 0x00FF } 0xFF 0xDD
    s.status = .running ∧ s.interruptDue = none ∧ s.inRange s.pc.toNat ∧
    descriptor s.cfg.table (s.mem.read s.pc.toNat) = none := by decide

theorem witness_FaultsArePrecise : edge.cfg.valid ∧ small.cfg.valid ∧ (∃ t, step { edge with pc := 0x0100 } = .next t ∧ decide (t.status = .faulted) = true) ∧
    (∃ t, step (with1 small 0 0xCD) = .next t ∧ decide (t.status = .faulted) = true) ∧
    ∃ t, step { small with inte := true, pending := some 0 } = .next t ∧ decide (t.status = .faulted) = true :=
  ⟨by decide, by decide, gives_next (by decide), gives_next (by decide), gives_next (by decide)⟩

theorem edge_inv : edge.Inv where
  cfg_valid := by decide
  mem_wf := by decide
  mem_inRange := by decide
  fault_iff := by decide
  fault_wf := fun r h => nomatch h

theorem faulted_inv : { edge with status := .faulted, fault := some (.addressOutOfRange 0 none 0x100 .fetch) }.Inv where
  cfg_valid := by decide
  mem_wf := by decide
  mem_inRange := by decide
  fault_iff := by decide
  fault_wf := fun r h => by cases h; exact ⟨by decide, by decide, by decide⟩

theorem witness_StepKeepsLegalState : edge.Inv ∧ ∃ t, step edge = .next t ∧ decide (t.status = .running) = true :=
  ⟨edge_inv, gives_next (by decide)⟩

theorem witness_ConstructedStateIsLegal : (⟨1, .tsrc, .clear⟩ : Config).valid ∧ (⟨65536, .t8080, .orBit3⟩ : Config).valid ∧
    ResetInput.src.valid ⟨1, .tsrc, .clear⟩ ∧ { ResetInput.zero with mem := [(0, 1)] }.valid ⟨1, .tsrc, .clear⟩ := by
  unfold ResetInput.valid; decide

theorem witness_HostKeepsLegalState : edge.Inv ∧
    ∀ snap, HostAction.restore snap ∈ [.inject 3, .step, .restore edge, .poke 0x100 1] → snap.Inv :=
  ⟨edge_inv, fun snap h => by simp at h; rw [h]; exact edge_inv⟩

theorem witness_ControlStateWriters : (∃ t, step edge = .next t ∧ decide (t.cfg = edge.cfg) = true) ∧
    (∃ t, exec (.push .bc) edge = .next t ∧ decide (t.status = .running) = true) ∧ Instr.nop ≠ .ei ∧ Instr.nop ≠ .di :=
  ⟨gives_next (by decide), gives_next (by decide), by decide, by decide⟩

theorem witness_FlagsNotListedUnchanged : (∃ t, exec (.inr .m) edge = .next t ∧ decide (t.status = .running) = true) ∧
    FlagName.cy ∉ (Instr.inr .m).flagsWritten ∧ FlagName.z ∉ Instr.rlc.flagsWritten :=
  ⟨gives_next (by decide), by decide, by decide⟩

theorem witness_RegistersNotWrittenUnchanged : (∃ t, exec (.pop .de) edgePop = .next t ∧ decide (t.status = .running) = true) ∧
    Reg.a ∉ (Instr.pop .de).regsWritten ∧ Instr.xthl.writesSp = false ∧ (∀ p, Instr.nop ≠ .inp p) ∧ ∀ p, Instr.nop ≠ .out p :=
  ⟨gives_next (by decide), by decide, by decide, fun _ h => (nomatch h), fun _ h => (nomatch h)⟩

theorem witness_MemoryOutsideStoreUnchanged : (∃ t, exec (.cnz 0) edge = .next t ∧ decide (t.sp = 0xFE) = true) ∧
    0xFD ∉ (Instr.cnz 0).storeAddrs edge ∧ 0xFE ∈ (Instr.cnz 0).storeAddrs edge ∧ (Instr.cz 0).storeAddrs edge = [] :=
  ⟨gives_next (by decide), by decide, by decide, by decide⟩

theorem witness_CentralAdvanceAndCost : edge.status = .running ∧
    (∃ t, exec (.rnz) edge = .next t ∧ decide (t.status = .faulted) = true) ∧
    (∃ t, exec (.cz 5) edge = .next t ∧ decide (t.status ≠ .faulted) = true) ∧ (Instr.cz 5).transfers edge.fl = false ∧
    (∃ t, exec (.cnz 5) edge = .next t ∧ decide (t.status ≠ .faulted) = true) ∧ (Instr.cnz 5).transfers edge.fl = true :=
  ⟨rfl, gives_next (by decide), gives_next (by decide), by decide, gives_next (by decide), by decide⟩

theorem witness_MovResult : edge.inRange edge.hl.toNat ∧ ¬ small.inRange small.hl.toNat := by decide

theorem witness_MviResult : edge.inRange edge.hl.toNat ∧ ¬ small.inRange small.hl.toNat := by decide

theorem witness_LdaStaResult : edge.inRange (0x00FF : Word).toNat ∧ ¬ edge.inRange (0x0100 : Word).toNat ∧
    State.reset.inRange (0xFFFF : Word).toNat := by decide

theorem witness_LhldShldResult : (edge.inRange (0x00FE : Word).toNat ∧ edge.inRange ((0x00FE : Word).toNat + 1)) ∧
    ¬ (edge.inRange (0x00FF : Word).toNat ∧ edge.inRange ((0x00FF : Word).toNat + 1)) ∧
    ¬ (State.reset.inRange (0xFFFF : Word).toNat ∧ State.reset.inRange ((0xFFFF : Word).toNat + 1)) := by decide

theorem witness_LdaxStaxResult : edge.inRange (edge.b ++ edge.c : Word).toNat ∧ edge.inRange (edge.d ++ edge.e : Word).toNat ∧
    ¬ small.inRange (small.b ++ small.c : Word).toNat ∧ ¬ small.inRange (small.d ++ small.e : Word).toNat := by decide

theorem witness_AddResult : edge.r8Ok .m ∧ small.r8Ok (.reg .a) := by decide

theorem witness_SubtractResult : edge.r8Ok .m ∧ small.r8Ok (.reg .h) := by decide

theorem witness_CompareResult : edge.r8Ok .m ∧ small.r8Ok (.reg .b) := by decide

theorem witness_LogicResult : edge.r8Ok .m ∧ small.r8Ok (.reg .l) := by decide

theorem witness_MemoryOperandFaults : ¬ small.inRange small.hl.toNat := by decide

theorem witness_IncrementDecrementResult : edge.inRange edge.hl.toNat ∧ ¬ small.inRange small.hl.toNat := by decide

theorem witness_DaaCorrectsDecimalSum :
    let s := { edge with a := 0x99, b := 0x99 }
    s.r8Ok (.reg .b) ∧ s.a.toNat = 99 / 10 * 16 + 99 % 10 ∧ (s.r8Value (.reg .b)).toNat = 99 / 10 * 16 + 99 % 10 ∧
    ∃ t, exec (.add (.reg .b)) s = .next t ∧ gives (exec .daa t) (fun u => decide (u.a = 0x98 ∧ u.fl.cy = true)) = true :=
  ⟨by decide, by decide, by decide, gives_next (by decide)⟩

theorem witness_CallResult : edge.pushOk ∧ ¬ small.pushOk ∧ (!edge.fl.z) = true ∧ edge.fl.z = false := by decide

theorem witness_ReturnResult : edgePop.popOk ∧ ¬ { edge with sp := 0x00FF }.popOk ∧ (!edgePop.fl.z) = true ∧ edgePop.fl.z = false := by
  decide

theorem witness_RstResult : edge.pushOk ∧ ¬ small.pushOk := by decide

theorem witness_PushResult : edge.pushOk ∧ { State.reset with sp := 0x0000 }.pushOk ∧ ¬ small.pushOk ∧
    ¬ { State.reset with sp := 0x0001 }.pushOk := by decide

theorem witness_PopResult : edgePop.popOk ∧ ¬ small.popOk ∧ ¬ { State.reset with sp := 0xFFFF }.popOk := by decide

theorem witness_XthlResult : edgePop.popOk ∧ ¬ { edge with sp := 0x00FF }.popOk := by decide

theorem witness_StackRoundTrips : edge.pushOk ∧ { State.reset with sp := 0x0000 }.pushOk := by decide

theorem witness_StoreSeenByNextFetch :
    let s := with1 { edge with a := 0x3C, l := 0x01 } 0 0x77
    s.runs (.movMR .a) ∧ s.inRange s.hl.toNat ∧ s.hl = s.pc + 1 ∧ (Instr.inr (.reg .a)).wf s.cfg.table = true ∧
    (Instr.inr (.reg .a)).length = 1 ∧ s.getReg .a = (Instr.inr (.reg .a)).opcode :=
  ⟨⟨rfl, rfl, rfl⟩, by decide, by decide, by decide, by decide, by decide⟩

theorem witness_WordAccessAtTopFaults : State.reset.cfg.memSize = 65536 ∧ { State.reset with sp := 0xFFFF }.sp = 0xFFFF ∧
    { State.reset with sp := 0x0001 }.sp = 0x0001 := ⟨rfl, rfl, rfl⟩

theorem witness_RegisterRoundTrip : Reg.b ≠ Reg.c := by decide

theorem witness_MemoryAccessLaws : edge.inRange 0xFF ∧ ¬ edge.inRange 0x100 ∧ (edge.inRange 0xFE ∧ edge.inRange (0xFE + 1)) ∧
    ¬ (edge.inRange 0xFF ∧ edge.inRange (0xFF + 1)) := by decide

theorem witness_LoadCopiesOrRefuses : 0xFD + [(1 : Byte), 2, 3].length ≤ edge.cfg.memSize ∧
    edge.cfg.memSize < 0xFE + [(1 : Byte), 2, 3].length := by decide

theorem witness_NewAndInject : (1 ≤ 1 ∧ 1 ≤ 65536) ∧ (1 ≤ 65536 ∧ 65536 ≤ 65536) ∧ ¬ (1 ≤ 0 ∧ 0 ≤ 65536) ∧
    ¬ (1 ≤ 65537 ∧ 65537 ≤ 65536) ∧ 7 < 8 ∧ 8 ≤ 8 := by decide

theorem witness_SnapshotRestore : ∃ t, Reaches edge t ∧ decide (t.cycles = 4) = true := by
  obtain ⟨t, h, p⟩ := gives_next (o := step edge) (p := fun t => decide (t.cycles = 4)) (by decide)
  exact ⟨t, .step (.refl edge) h, p⟩

theorem witness_RunUntilHaltIsSteps : (edge.status = .running ∧ ∃ t, step edge = .next t ∧ decide (t.pc = 1) = true) ∧
    { edge with status := .halted }.status ≠ .running :=
  ⟨⟨rfl, gives_next (by decide)⟩, by decide⟩

end Sys2Proof.Tests
end

section
/-! What a completing instruction leaves unchanged, said once for every instruction: the frame of its rule (10_state.md R23, R28,
files 40 to 45), whether it transfers control (R125), and from both all that `exec` can answer. -/

namespace Sys2Proof.Machine

/-! A property of whatever an access answers when it raises no fault. -/

/-- If `e` raises no fault, its answer has the property `P`. -/
def Yields {α : Type} (e : Except AccessFault α) (P : α → Prop) : Prop := ∀ x, e = .ok x → P x

theorem Yields.ok {α : Type} {a : α} {P : α → Prop} (h : P a) : Yields (.ok a) P := by
  rintro x ⟨⟩; exact h

theorem Yields.bind {α β : Type} {e : Except AccessFault α} {k : α → Except AccessFault β} {Q : α → Prop} {P : β → Prop}
    (he : Yields e Q) (hk : ∀ a, Q a → Yields (k a) P) : Yields (e >>= k) P := by
  intro x hx
  obtain ⟨a, ha, hka⟩ := bind_eq_ok.1 hx
  exact hk a (he a ha) x hka

/-- A read, of whose value nothing need be known. -/
theorem Yields.read {α β : Type} {e : Except AccessFault α} {k : α → Except AccessFault β} {P : β → Prop}
    (hk : ∀ a, Yields (k a) P) : Yields (e >>= k) P :=
  .bind (Q := fun _ => True) (fun _ _ => trivial) fun a _ => hk a

/-! The frame. -/

/-- `u` differs from `s` only in what the tables of the spec let the instruction `i` write. -/
structure Frame (i : Instr) (s u : State) : Prop where
  cfg : u.cfg = s.cfg
  inte : i ≠ .ei → i ≠ .di → u.inte = s.inte
  pending : u.pending = s.pending
  status : u.status = if i = .hlt then .halted else s.status
  flag : ∀ f, f ∉ i.flagsWritten → u.fl.get f = s.fl.get f
  reg : ∀ r, r ∉ i.regsWritten → u.getReg r = s.getReg r
  sp : i.writesSp = false → u.sp = s.sp
  portReads : (∀ p, i ≠ .inp p) → u.portReads = s.portReads
  portWrites : (∀ p, i ≠ .out p) → u.portWrites = s.portWrites

section
variable {i : Instr} {s u : State}

namespace Frame

theorem refl (h : i ≠ .hlt) : Frame i s s where
  cfg := rfl
  inte _ _ := rfl
  pending := rfl
  status := (if_neg h).symm
  flag _ _ := rfl
  reg _ _ := rfl
  sp _ := rfl
  portReads _ := rfl
  portWrites _ := rfl

/-- R131: HLT writes the status and nothing else. -/
theorem halt : Frame .hlt s { s with status := .halted } where
  cfg := rfl
  inte _ _ := rfl
  pending := rfl
  status := rfl
  flag _ _ := rfl
  reg _ _ := rfl
  sp _ := rfl
  portReads _ := rfl
  portWrites _ := rfl

/-- The central completion (R125, R126) is outside every frame. -/
theorem complete (h : Frame i s u) (pc : Word) (cycles : Nat) : Frame i s { u with pc := pc, cycles := cycles } :=
  { h with }

theorem setMem (h : Frame i s u) (m : Memory) : Frame i s { u with mem := m } :=
  { h with }

theorem setSp (h : Frame i s u) (hi : i.writesSp = true) (w : Word) : Frame i s { u with sp := w } :=
  { h with sp := fun hi' => absurd (hi.symm.trans hi') nofun }

theorem setReg {r : Reg} (h : Frame i s u) (hr : r ∈ i.regsWritten) (v : Byte) : Frame i s (u.setReg r v) := by
  have hreg : ∀ r', r' ∉ i.regsWritten → (u.setReg r v).getReg r' = s.getReg r' := fun r' hr' =>
    (getReg_setReg_other u r r' v fun e => hr' (e ▸ hr)).trans (h.reg r' hr')
  cases r <;> exact { h with reg := hreg }

theorem setPair {p : Pair} (h : Frame i s u) (hp : pairRegs p ⊆ i.regsWritten) (w : Word) : Frame i s (u.setPair p w) :=
  (h.setReg (hp (by simp [pairRegs])) _).setReg (hp (by simp [pairRegs])) _

theorem setRP {x : PairSP} (h : Frame i s u) (hx : rpRegs x ⊆ i.regsWritten) (hsp : i.writesSp = (x == .sp)) (w : Word) :
    Frame i s (u.setRP x w) := by
  cases x with
  | pair p => exact h.setPair hx w
  | sp => exact h.setSp hsp w

theorem setFlags {fl : Flags} (h : Frame i s u) (hf : ∀ f, f ∉ i.flagsWritten → fl.get f = s.fl.get f) :
    Frame i s { u with fl := fl } :=
  { h with flag := hf }

theorem setCarry (h : Frame i s u) (hc : .cy ∈ i.flagsWritten) (v : Bool) : Frame i s (u.setCarry v) := by
  refine h.setFlags fun f hf => ?_
  rw [← h.flag f hf]
  cases f with
  | cy => exact absurd hc hf
  | z | s | p | ac => rfl

theorem setRotate (h : Frame i s u) (ha : .a ∈ i.regsWritten) (hc : .cy ∈ i.flagsWritten) (q : Byte × Bool) :
    Frame i s (u.setRotate q) :=
  (h.setReg ha q.1).setCarry hc q.2

theorem setCompare (h : Frame i s u) (hf : ∀ f, f ∈ i.flagsWritten) (o : AluOut) : Frame i s (u.setCompare o) :=
  h.setFlags fun f hf' => absurd (hf f) hf'

theorem setAcc (h : Frame i s u) (ha : .a ∈ i.regsWritten) (hf : ∀ f, f ∈ i.flagsWritten) (o : AluOut) :
    Frame i s (u.setAcc o) :=
  (h.setReg ha o.res).setCompare hf o

theorem setPsw (h : Frame i s u) (ha : .a ∈ i.regsWritten) (hf : ∀ f, f ∈ i.flagsWritten) (w : Word) :
    Frame i s (u.setPsw w) :=
  (h.setReg ha (hiByte w)).setFlags (fl := Flags.ofByte (loByte w)) fun f hf' => absurd (hf f) hf'

end Frame

/-- The row of the flag table R28 of the instructions that write all five flags. -/
theorem mem_allFlags (f : FlagName) : f ∈ [FlagName.z, .s, .p, .cy, .ac] := by
  cases f <;> decide

/-! The operations that give a state, and their frames. -/

theorem memWrite1_frame {acc : Access} {x : Nat} {v : Byte} (hi : i ≠ .hlt) : Yields (s.memWrite1 acc x v) (Frame i s) := by
  intro t ht
  obtain ⟨-, rfl⟩ := memWrite1_eq_ok.1 ht
  exact (Frame.refl (s := s) hi).setMem _

theorem memWrite2_frame {acc : Access} {x : Nat} {w : Word} (hi : i ≠ .hlt) : Yields (s.memWrite2 acc x w) (Frame i s) := by
  intro t ht
  obtain ⟨-, rfl⟩ := memWrite2_eq_ok.1 ht
  exact (Frame.refl (s := s) hi).setMem _

theorem push16_frame {acc : Access} {w : Word} (hi : i ≠ .hlt) (hsp : i.writesSp = true) :
    Yields (s.push16 acc w) (Frame i s) :=
  .bind (memWrite2_frame hi) fun _ hu => .ok (hu.setSp hsp _)

theorem pop16_frame (hi : i ≠ .hlt) (hsp : i.writesSp = true) : Yields s.pop16 fun r => Frame i s r.2 :=
  .read fun _ => .ok ((Frame.refl hi).setSp hsp _)

theorem writeR8_frame {o : R8} {v : Byte} (hi : i ≠ .hlt) (ho : r8Regs o ⊆ i.regsWritten) :
    Yields (s.writeR8 o v) (Frame i s) := by
  cases o with
  | reg r => exact .ok ((Frame.refl hi).setReg (ho (by simp [r8Regs])) v)
  | m => exact memWrite1_frame hi

/-! R170, R171: INR and DCR do not write Carry. -/

theorem afterInr_get (fl : Flags) (v : Byte) : ∀ f, f ∉ [FlagName.z, .s, .p, .ac] → (fl.afterInr v).get f = fl.get f := by
  intro f hf
  cases f with
  | cy => rfl
  | z | s | p | ac => simp at hf

theorem afterDcr_get (fl : Flags) (v : Byte) : ∀ f, f ∉ [FlagName.z, .s, .p, .ac] → (fl.afterDcr v).get f = fl.get f := by
  intro f hf
  cases f with
  | cy => rfl
  | z | s | p | ac => simp at hf

/-! What the rule of each instruction leaves. -/

/-- The effect keeps the instruction's frame, and writes `pc` exactly when the instruction transfers control (R125). -/
inductive Completes (i : Instr) (s : State) : Effect → Prop where
  | advance {u : State} (ht : i.transfers s.fl = false) (hu : Frame i s u) : Completes i s (.advance u)
  | redirect {u : State} {target : Word} (ht : i.transfers s.fl = true) (hu : Frame i s u) : Completes i s (.redirect u target)

theorem jumpIf_completes {cnd : Cond} {w : Word} (hi : i ≠ .hlt) (ht : i.transfers s.fl = s.fl.cond cnd) :
    Yields (jumpIf cnd w s) (Completes i s) := by
  unfold jumpIf
  split
  · next h => exact .ok (.redirect (ht.trans h) (.refl hi))
  · next h => exact .ok (.advance (ht.trans (by simpa using h)) (.refl hi))

theorem callTo_completes {w : Word} (hi : i ≠ .hlt) (hsp : i.writesSp = true) (ht : i.transfers s.fl = true) :
    Yields (callTo w s) (Completes i s) :=
  .bind (push16_frame hi hsp) fun _ hu => .ok (.redirect ht hu)

theorem callIf_completes {cnd : Cond} {w : Word} (hi : i ≠ .hlt) (hsp : i.writesSp = true)
    (ht : i.transfers s.fl = s.fl.cond cnd) : Yields (callIf cnd w s) (Completes i s) := by
  unfold callIf
  split
  · next h => exact callTo_completes hi hsp (ht.trans h)
  · next h => exact .ok (.advance (ht.trans (by simpa using h)) (.refl hi))

theorem returnFrom_completes (hi : i ≠ .hlt) (hsp : i.writesSp = true) (ht : i.transfers s.fl = true) :
    Yields (returnFrom s) (Completes i s) :=
  .bind (pop16_frame hi hsp) fun _ hr => .ok (.redirect ht hr)

theorem returnIf_completes {cnd : Cond} (hi : i ≠ .hlt) (hsp : i.writesSp = true) (ht : i.transfers s.fl = s.fl.cond cnd) :
    Yields (returnIf cnd s) (Completes i s) := by
  unfold returnIf
  split
  · next h => exact returnFrom_completes hi hsp (ht.trans h)
  · next h => exact .ok (.advance (ht.trans (by simpa using h)) (.refl hi))

/-- Every meaning but that of the Unimplemented entry is `finish` of an effect that keeps the instruction's frame. -/
theorem exec_eq_finish (i : Instr) (s : State) (hop : ∀ op, i ≠ .unimplemented op) :
    ∃ e, exec i s = finish i s e ∧ Yields e (Completes i s) := by
  by_cases hi : i = .hlt
  · subst hi
    exact ⟨_, rfl, .ok (.advance rfl Frame.halt)⟩
  cases i with
  | unimplemented op => exact absurd rfl (hop op)
  | hlt => exact absurd rfl hi
  | nop => exact ⟨_, rfl, .ok (.advance rfl (.refl hi))⟩
  | ei | di =>
    refine ⟨_, rfl, .ok (.advance rfl ?_)⟩
    exact { Frame.refl (s := s) hi with inte := by simp }
  | movRR | mviR => exact ⟨_, rfl, .ok (.advance rfl ((Frame.refl hi).setReg (List.mem_singleton_self _) _))⟩
  | movRM | lda | ldax =>
    exact ⟨_, rfl, .read fun _ => .ok (.advance rfl ((Frame.refl hi).setReg (List.mem_singleton_self _) _))⟩
  | movMR | mviM | sta | stax =>
    exact ⟨_, rfl, .bind (memWrite1_frame hi) fun _ hu => .ok (.advance rfl hu)⟩
  | shld => exact ⟨_, rfl, .bind (memWrite2_frame hi) fun _ hu => .ok (.advance rfl hu)⟩
  | lhld => exact ⟨_, rfl, .read fun _ => .ok (.advance rfl ((Frame.refl hi).setPair (p := .hl) (List.Subset.refl _) _))⟩
  | xchg =>
    exact ⟨_, rfl, .ok (.advance rfl
      (((Frame.refl hi).setPair (p := .hl) (by decide) _).setPair (p := .de) (by decide) _))⟩
  | lxi | inx | dcx => exact ⟨_, rfl, .ok (.advance rfl ((Frame.refl hi).setRP (List.Subset.refl _) rfl _))⟩
  | add | adc | sub | sbb | ana | xra | ora =>
    exact ⟨_, rfl, .read fun _ => .ok (.advance rfl
      ((Frame.refl hi).setAcc (List.mem_singleton_self _) mem_allFlags _))⟩
  | adi | aci | sui | sbi | ani | xri | ori | daa =>
    exact ⟨_, rfl, .ok (.advance rfl ((Frame.refl hi).setAcc (List.mem_singleton_self _) mem_allFlags _))⟩
  | cmp => exact ⟨_, rfl, .read fun _ => .ok (.advance rfl ((Frame.refl hi).setCompare mem_allFlags _))⟩
  | cpi => exact ⟨_, rfl, .ok (.advance rfl ((Frame.refl hi).setCompare mem_allFlags _))⟩
  | inr =>
    exact ⟨_, rfl, .read fun v => .bind (writeR8_frame hi (List.Subset.refl _)) fun _ hu =>
      .ok (.advance rfl (hu.setFlags (afterInr_get s.fl v)))⟩
  | dcr =>
    exact ⟨_, rfl, .read fun v => .bind (writeR8_frame hi (List.Subset.refl _)) fun _ hu =>
      .ok (.advance rfl (hu.setFlags (afterDcr_get s.fl v)))⟩
  | dad =>
    exact ⟨_, rfl, .ok (.advance rfl
      (((Frame.refl hi).setPair (p := .hl) (List.Subset.refl _) _).setCarry (List.mem_singleton_self _) _))⟩
  | rlc | rrc | ral | rar =>
    exact ⟨_, rfl, .ok (.advance rfl
      ((Frame.refl hi).setRotate (List.mem_singleton_self _) (List.mem_singleton_self _) _))⟩
  | cma => exact ⟨_, rfl, .ok (.advance rfl ((Frame.refl hi).setReg (List.mem_singleton_self _) _))⟩
  | cmc | stc => exact ⟨_, rfl, .ok (.advance rfl ((Frame.refl hi).setCarry (List.mem_singleton_self _) _))⟩
  | jmp | pchl => exact ⟨_, rfl, .ok (.redirect rfl (.refl hi))⟩
  | jnz | jz | jnc | jc | jpo | jpe | jp | jm => exact ⟨_, rfl, jumpIf_completes hi rfl⟩
  | call => exact ⟨_, rfl, callTo_completes hi rfl rfl⟩
  | cnz | cz | cnc | cc | cpo | cpe | cp | cm => exact ⟨_, rfl, callIf_completes hi rfl rfl⟩
  | ret => exact ⟨_, rfl, returnFrom_completes hi rfl rfl⟩
  | rnz | rz | rnc | rc | rpo | rpe | rp | rm => exact ⟨_, rfl, returnIf_completes hi rfl rfl⟩
  | rst => exact ⟨_, rfl, .bind (push16_frame hi rfl) fun _ hu => .ok (.redirect rfl hu)⟩
  | push | pushPsw => exact ⟨_, rfl, .bind (push16_frame hi rfl) fun _ hu => .ok (.advance rfl hu)⟩
  | pop =>
    exact ⟨_, rfl, .bind (pop16_frame hi rfl) fun _ hu => .ok (.advance rfl (hu.setPair (List.Subset.refl _) _))⟩
  | popPsw =>
    exact ⟨_, rfl, .bind (pop16_frame hi rfl) fun _ hu =>
      .ok (.advance rfl (hu.setPsw (List.mem_singleton_self _) mem_allFlags _))⟩
  | xthl =>
    exact ⟨_, rfl, .read fun _ => .bind (memWrite2_frame hi) fun _ hu =>
      .ok (.advance rfl (hu.setPair (p := .hl) (List.Subset.refl _) _))⟩
  | sphl => exact ⟨_, rfl, .ok (.advance rfl ((Frame.refl hi).setSp rfl _))⟩
  | inp =>
    refine ⟨_, rfl, .ok (.advance rfl (.setReg ?_ (List.mem_singleton_self _) _))⟩
    exact { Frame.refl (s := s) hi with portReads := fun h => absurd rfl (h _) }
  | out =>
    refine ⟨_, rfl, .ok (.advance rfl ?_)⟩
    exact { Frame.refl (s := s) hi with portWrites := fun h => absurd rfl (h _) }

end

/-- All that `exec` can answer: a fault taken; the central advance, of an instruction that transfers no control; or a transfer of
control. In the last two the state outside `pc` and `cycles` is one in the instruction's frame. -/
theorem exec_next {i : Instr} {s t : State} (h : exec i s = .next t) :
    (∃ r, t = s.takeFault r) ∨
    (i.transfers s.fl = false ∧
      ∃ u, Frame i s u ∧ t = { u with pc := s.pc + BitVec.ofNat 16 i.length, cycles := s.cycles + i.cost }) ∨
    (i.transfers s.fl = true ∧ ∃ u target, Frame i s u ∧ t = { u with pc := target, cycles := s.cycles + i.costTaken }) := by
  by_cases hop : ∃ op, i = .unimplemented op
  · obtain ⟨op, rfl⟩ := hop
    exact .inl ⟨_, (Host.Outcome.next.inj h).symm⟩
  · obtain ⟨e, he, hy⟩ := exec_eq_finish i s fun op hi => hop ⟨op, hi⟩
    obtain ⟨f, -, rfl⟩ | ⟨u, hu, rfl⟩ | ⟨u, target, hu, rfl⟩ := finish_next (he ▸ h)
    · exact .inl ⟨_, rfl⟩
    · obtain ⟨ht, hf⟩ := hy _ hu
      exact .inr (.inl ⟨ht, u, hf, rfl⟩)
    · obtain - | ⟨ht, hf⟩ := hy _ hu
      exact .inr (.inr ⟨ht, u, target, hf, rfl⟩)

/-- Every instruction either takes a fault or keeps its frame. -/
theorem exec_frame {i : Instr} {s t : State} (h : exec i s = .next t) : (∃ r, t = s.takeFault r) ∨ Frame i s t := by
  obtain hr | ⟨-, u, hu, rfl⟩ | ⟨-, u, _, hu, rfl⟩ := exec_next h
  · exact .inl hr
  · exact .inr (hu.complete _ _)
  · exact .inr (hu.complete _ _)

/-- All that a step can answer as a next state (R120, R250): the interrupt entry, a fault of the fetch, or what the fetched
instruction answers. -/
theorem step_next {s t : State} (h : step s = .next t) :
    s.status = .running ∧
    ((∃ n, s.interruptDue = some n ∧ t = s.interruptEntry n) ∨
     (s.interruptDue = none ∧ ∃ r, s.fetchInstr = .error r ∧ t = s.takeFault r) ∨
     (s.interruptDue = none ∧ ∃ i, s.fetchInstr = .ok i ∧ exec i s = .next t)) := by
  unfold step at h
  split at h
  · cases h
  · cases h
  · next hs =>
    refine ⟨hs, ?_⟩
    split at h
    · next n hn => exact .inl ⟨n, hn, (Host.Outcome.next.inj h).symm⟩
    · next hn =>
      split at h
      · next r hr => exact .inr (.inl ⟨hn, r, hr, (Host.Outcome.next.inj h).symm⟩)
      · next i hi => exact .inr (.inr ⟨hn, i, hi, h⟩)

end Sys2Proof.Machine
end

section
/-! No step reads the cycle total (R33), and no instruction reads the pending vector (R31): a run that differs in these two alone
goes the same way and still differs in them alone. -/

namespace Sys2Proof.Machine

/-- The same machine with `n` more cycles and the pending slot changed by `v`. -/
def State.withUnread (n : Nat) (v : Option VecNum → Option VecNum) (s : State) : State :=
  { s with cycles := s.cycles + n, pending := v s.pending }

/-- An effect with a function applied to the state it leaves. -/
def Effect.map (g : State → State) : Effect → Effect
  | .advance t => .advance (g t)
  | .redirect t target => .redirect (g t) target

section
variable {n : Nat} {v : Option VecNum → Option VecNum} {s : State}

/-! The state updates commute with the change. -/

theorem setReg_withUnread (r : Reg) (b : Byte) : (s.withUnread n v).setReg r b = (s.setReg r b).withUnread n v := by
  cases r <;> rfl

theorem setPair_withUnread (p : Pair) (w : Word) : (s.withUnread n v).setPair p w = (s.setPair p w).withUnread n v := by
  simp only [State.setPair, setReg_withUnread]

theorem setRP_withUnread (x : PairSP) (w : Word) : (s.withUnread n v).setRP x w = (s.setRP x w).withUnread n v := by
  cases x with
  | pair p => exact setPair_withUnread p w
  | sp => rfl

theorem setAcc_withUnread (o : AluOut) : (s.withUnread n v).setAcc o = (s.setAcc o).withUnread n v := rfl
theorem setCompare_withUnread (o : AluOut) : (s.withUnread n v).setCompare o = (s.setCompare o).withUnread n v := rfl

/-! An access answers the same value, or a state that differs as before. -/

/-- Two computations in step: if the answers of the first parts differ by `φ` and what follows keeps the difference, as `ψ`, so
does the whole. -/
theorem bind_map {α β : Type} {e e' : Except AccessFault α} {k k' : α → Except AccessFault β} {φ : α → α} {ψ : β → β}
    (he : e' = e.map φ) (hk : ∀ a, k' (φ a) = (k a).map ψ) : (e' >>= k') = (e >>= k).map ψ := by
  subst he
  cases e with
  | error f => rfl
  | ok a => exact hk a

theorem bind_read {α β : Type} {e : Except AccessFault α} {k k' : α → Except AccessFault β} {ψ : β → β}
    (hk : ∀ a, k' a = (k a).map ψ) : (e >>= k') = (e >>= k).map ψ :=
  bind_map (φ := id) (by rw [Except.map_id]; rfl) hk

theorem memWrite1_withUnread (acc : Access) (x : Nat) (b : Byte) :
    (s.withUnread n v).memWrite1 acc x b = (s.memWrite1 acc x b).map (State.withUnread n v) := by
  by_cases h : s.inRange x
  · rw [memWrite1_of_inRange h, memWrite1_of_inRange (s := s.withUnread n v) h]; rfl
  · rw [memWrite1_of_not_inRange h, memWrite1_of_not_inRange (s := s.withUnread n v) h]; rfl

theorem memWrite2_withUnread (acc : Access) (x : Nat) (w : Word) :
    (s.withUnread n v).memWrite2 acc x w = (s.memWrite2 acc x w).map (State.withUnread n v) := by
  by_cases h : s.inRange x ∧ s.inRange (x + 1)
  · rw [memWrite2_of_inRange h, memWrite2_of_inRange (s := s.withUnread n v) h]; rfl
  · rw [memWrite2_of_not_inRange h, memWrite2_of_not_inRange (s := s.withUnread n v) h]; rfl

theorem push16_withUnread (acc : Access) (w : Word) :
    (s.withUnread n v).push16 acc w = (s.push16 acc w).map (State.withUnread n v) :=
  bind_map (memWrite2_withUnread acc _ w) fun _ => rfl

theorem pop16_withUnread : (s.withUnread n v).pop16 = s.pop16.map (Prod.map id (State.withUnread n v)) :=
  bind_read fun _ => rfl

theorem writeR8_withUnread (o : R8) (b : Byte) :
    (s.withUnread n v).writeR8 o b = (s.writeR8 o b).map (State.withUnread n v) := by
  cases o with
  | reg r => exact congrArg Except.ok (setReg_withUnread r b)
  | m => exact memWrite1_withUnread .write _ b

/-! The shared shapes of an instruction's rule. -/

theorem advance_map {t t' : State} (h : t' = t.withUnread n v) :
    Except.ok (ε := AccessFault) (.advance t') = (Except.ok (.advance t)).map (Effect.map (State.withUnread n v)) := by
  rw [h]; rfl

theorem jumpIf_withUnread (cnd : Cond) (w : Word) :
    jumpIf cnd w (s.withUnread n v) = (jumpIf cnd w s).map (Effect.map (State.withUnread n v)) := by
  simp only [jumpIf, apply_ite (Except.map _)]; rfl

theorem callTo_withUnread (w : Word) :
    callTo w (s.withUnread n v) = (callTo w s).map (Effect.map (State.withUnread n v)) :=
  bind_map (push16_withUnread .write _) fun _ => rfl

theorem callIf_withUnread (cnd : Cond) (w : Word) :
    callIf cnd w (s.withUnread n v) = (callIf cnd w s).map (Effect.map (State.withUnread n v)) := by
  simp only [callIf, callTo_withUnread, apply_ite (Except.map _)]; rfl

theorem returnFrom_withUnread : returnFrom (s.withUnread n v) = (returnFrom s).map (Effect.map (State.withUnread n v)) :=
  bind_map pop16_withUnread fun _ => rfl

theorem returnIf_withUnread (cnd : Cond) :
    returnIf cnd (s.withUnread n v) = (returnIf cnd s).map (Effect.map (State.withUnread n v)) := by
  simp only [returnIf, returnFrom_withUnread, apply_ite (Except.map _)]; rfl

/-- The completion adds its cost to whatever the total is (R126). -/
theorem finish_withUnread {i : Instr} {e e' : Except AccessFault Effect}
    (h : e' = e.map (Effect.map (State.withUnread n v))) :
    finish i (s.withUnread n v) e' = mapNext (State.withUnread n v) (finish i s e) := by
  subst h
  match e with
  | .error f => rfl
  | .ok (.advance t) => simp [finish, mapNext, Except.map, Effect.map, State.withUnread, Nat.add_right_comm]
  | .ok (.redirect t target) => simp [finish, mapNext, Except.map, Effect.map, State.withUnread, Nat.add_right_comm]

end

/-- Every meaning but that of the Unimplemented entry is `finish` of an effect that keeps the change. -/
theorem exec_effect_withUnread (n : Nat) (v : Option VecNum → Option VecNum) (i : Instr) (hop : ∀ op, i ≠ .unimplemented op) :
    ∃ e : State → Except AccessFault Effect, (∀ s, exec i s = finish i s (e s)) ∧
      ∀ s, e (s.withUnread n v) = (e s).map (Effect.map (State.withUnread n v)) := by
  cases i with
  | unimplemented op => exact absurd rfl (hop op)
  | nop | hlt | ei | di | sphl | out => exact ⟨fun _ => .ok (.advance _), fun _ => rfl, fun _ => rfl⟩
  | jmp | pchl => exact ⟨fun _ => .ok (.redirect _ _), fun _ => rfl, fun _ => rfl⟩
  | movRR | mviR | cma => exact ⟨fun _ => .ok (.advance _), fun _ => rfl, fun _ => advance_map (setReg_withUnread _ _)⟩
  | inp port =>
    exact ⟨fun _ => .ok (.advance _), fun _ => rfl, fun s =>
      advance_map (setReg_withUnread (s := (s.portRead port).2) _ _)⟩
  | movRM | lda | ldax => exact ⟨_, fun _ => rfl, fun _ => bind_read fun _ => advance_map (setReg_withUnread _ _)⟩
  | movMR | mviM | sta | stax => exact ⟨_, fun _ => rfl, fun _ => bind_map (memWrite1_withUnread .write _ _) fun _ => rfl⟩
  | shld => exact ⟨_, fun _ => rfl, fun _ => bind_map (memWrite2_withUnread .write _ _) fun _ => rfl⟩
  | lhld => exact ⟨_, fun _ => rfl, fun _ => bind_read fun _ => advance_map (setPair_withUnread .hl _)⟩
  | xchg =>
    exact ⟨fun _ => .ok (.advance _), fun _ => rfl, fun _ => advance_map
      ((congrArg (State.setPair · .de _) (setPair_withUnread .hl _)).trans (setPair_withUnread .de _))⟩
  | lxi | inx | dcx => exact ⟨fun _ => .ok (.advance _), fun _ => rfl, fun _ => advance_map (setRP_withUnread _ _)⟩
  | add | adc | sub | sbb | ana | xra | ora =>
    exact ⟨_, fun _ => rfl, fun _ => bind_read fun _ => advance_map (setAcc_withUnread _)⟩
  | adi | aci | sui | sbi | ani | xri | ori | daa =>
    exact ⟨fun _ => .ok (.advance _), fun _ => rfl, fun _ => advance_map (setAcc_withUnread _)⟩
  | cmp => exact ⟨_, fun _ => rfl, fun _ => bind_read fun _ => advance_map (setCompare_withUnread _)⟩
  | cpi => exact ⟨fun _ => .ok (.advance _), fun _ => rfl, fun _ => advance_map (setCompare_withUnread _)⟩
  | rlc | rrc | ral | rar | cmc | stc => exact ⟨fun _ => .ok (.advance _), fun _ => rfl, fun _ => rfl⟩
  | inr | dcr => exact ⟨_, fun _ => rfl, fun _ => bind_read fun _ => bind_map (writeR8_withUnread _ _) fun _ => rfl⟩
  | dad =>
    exact ⟨fun _ => .ok (.advance _), fun _ => rfl, fun _ =>
      advance_map (congrArg (State.setCarry · _) (setPair_withUnread .hl _))⟩
  | jnz | jz | jnc | jc | jpo | jpe | jp | jm => exact ⟨_, fun _ => rfl, fun _ => jumpIf_withUnread _ _⟩
  | call => exact ⟨_, fun _ => rfl, fun _ => callTo_withUnread _⟩
  | cnz | cz | cnc | cc | cpo | cpe | cp | cm => exact ⟨_, fun _ => rfl, fun _ => callIf_withUnread _ _⟩
  | ret => exact ⟨_, fun _ => rfl, fun _ => returnFrom_withUnread⟩
  | rnz | rz | rnc | rc | rpo | rpe | rp | rm => exact ⟨_, fun _ => rfl, fun _ => returnIf_withUnread _⟩
  | rst | push | pushPsw => exact ⟨_, fun _ => rfl, fun _ => bind_map (push16_withUnread .write _) fun _ => rfl⟩
  | pop => exact ⟨_, fun _ => rfl, fun _ => bind_map pop16_withUnread fun _ => advance_map (setPair_withUnread _ _)⟩
  | popPsw => exact ⟨_, fun _ => rfl, fun _ => bind_map pop16_withUnread fun _ => rfl⟩
  | xthl =>
    exact ⟨_, fun _ => rfl, fun _ => bind_read fun _ => bind_map (memWrite2_withUnread .write _ _) fun _ =>
      advance_map (setPair_withUnread .hl _)⟩

/-- No instruction reads the cycle total or the pending vector. -/
theorem exec_withUnread (n : Nat) (v : Option VecNum → Option VecNum) (i : Instr) (s : State) :
    exec i (s.withUnread n v) = mapNext (State.withUnread n v) (exec i s) := by
  by_cases hop : ∃ op, i = .unimplemented op
  · obtain ⟨op, rfl⟩ := hop
    rfl
  · obtain ⟨e, he, hmap⟩ := exec_effect_withUnread n v i fun op hi => hop ⟨op, hi⟩
    rw [he, he, finish_withUnread (hmap s)]

/-- Fetching the operand bytes reads the parameters and memory only. -/
theorem readOperands_withUnread (n : Nat) (v : Option VecNum → Option VecNum) (s : State) (x k : Nat) :
    (s.withUnread n v).readOperands x k = s.readOperands x k := by
  induction k generalizing x with
  | zero => rfl
  | succ k ih => simp only [State.readOperands, ih]; rfl

theorem fetchInstr_withUnread (n : Nat) (v : Option VecNum → Option VecNum) (s : State) :
    (s.withUnread n v).fetchInstr = s.fetchInstr := by
  simp only [State.fetchInstr, ← readOperands_withUnread n v s]; rfl

/-- The interrupt entry adds its 11 cycles to whatever the total is (R249). -/
theorem interruptEntry_withUnread (n : Nat) (s : State) (k : VecNum) :
    (s.withUnread n id).interruptEntry k = (s.interruptEntry k).withUnread n id := by
  by_cases h : s.pushOk
  · simp only [State.interruptEntry, push16_of_pushOk h, push16_of_pushOk (s := s.withUnread n id) h]
    simp [State.withUnread, Nat.add_right_comm]
  · simp only [State.interruptEntry, push16_of_not_pushOk h, push16_of_not_pushOk (s := s.withUnread n id) h]
    rfl

/-- A step of the machine with more cycles is the step with as many more cycles. -/
theorem step_withUnread (n : Nat) (s : State) :
    step (s.withUnread n id) = mapNext (State.withUnread n id) (step s) := by
  have hstatus : (s.withUnread n id).status = s.status := rfl
  have hdue : (s.withUnread n id).interruptDue = s.interruptDue := rfl
  simp only [step, hstatus, hdue, fetchInstr_withUnread, interruptEntry_withUnread, exec_withUnread]
  cases s.status with
  | halted | faulted => rfl
  | running =>
    cases s.interruptDue with
    | some k => rfl
    | none =>
      cases s.fetchInstr with
      | error r => rfl
      | ok i => rfl

end Sys2Proof.Machine
end

section
/-! The statements about the state (10_state.md), from the frame of every instruction and the laws of the state's operations. -/

namespace Sys2Proof.Machine

/-- The parameters outlive every instruction (R6, R270). -/
theorem exec_cfg {i : Instr} {s t : State} (h : exec i s = .next t) : t.cfg = s.cfg := by
  obtain ⟨r, rfl⟩ | hf := exec_frame h
  · rfl
  · exact hf.cfg

/-- The parameters outlive the interrupt entry, whether its push succeeds or not (R249). -/
theorem interruptEntry_cfg (s : State) (n : VecNum) : (s.interruptEntry n).cfg = s.cfg := by
  unfold State.interruptEntry
  split
  · rfl
  · next t ht =>
    obtain ⟨-, rfl⟩ := push16_eq_ok.1 ht
    rfl

/-- Settles O17: from the frame of every instruction, and for the step through its three answers. -/
theorem controlStateWriters : Obligations.ControlStateWriters := by
  refine ⟨fun s t h => ?_, fun i s t h => ?_⟩
  · obtain ⟨-, ⟨n, -, rfl⟩ | ⟨-, r, -, rfl⟩ | ⟨-, i, -, hi⟩⟩ := step_next h
    · exact interruptEntry_cfg s n
    · rfl
    · exact exec_cfg hi
  · obtain ⟨r, rfl⟩ | hf := exec_frame h
    · exact ⟨rfl, fun _ _ => rfl⟩
    · exact ⟨hf.pending, hf.inte⟩

/-- Settles O18, from the frame of every instruction. -/
theorem flagsNotListedUnchanged : Obligations.FlagsNotListedUnchanged := by
  intro i s t f h hf
  obtain ⟨r, rfl⟩ | hfr := exec_frame h
  · rfl
  · exact hfr.flag f hf

/-- Settles O19, from the frame of every instruction. -/
theorem registersNotWrittenUnchanged : Obligations.RegistersNotWrittenUnchanged := by
  intro i s t h
  obtain ⟨r, rfl⟩ | hf := exec_frame h
  · exact ⟨fun r' _ => takeFault_getReg s r' r, fun _ => rfl, fun _ => rfl, fun _ => rfl⟩
  · exact ⟨hf.reg, hf.sp, hf.portReads, hf.portWrites⟩

/-- An instruction that completes does not end Faulted where it began Running (R32, R131). -/
theorem Frame.not_faulted {i : Instr} {s u : State} (h : Frame i s u) (hs : s.status = .running) : u.status ≠ .faulted := by
  rw [h.status, hs]
  split <;> decide

/-- The central advance, as a number (R36, R125). -/
theorem toNat_advance (pc : Word) (len : Nat) : (pc + BitVec.ofNat 16 len).toNat = (pc.toNat + len) % 65536 := by
  simp

/-- Settles O21: a faulting instruction keeps the old `pc` and `cycles`, and of the two ways to complete the flags at the start
decide which one is taken. -/
theorem centralAdvanceAndCost : Obligations.CentralAdvanceAndCost := by
  intro i s t hs h
  obtain ⟨r, rfl⟩ | ⟨ht, u, hu, rfl⟩ | ⟨ht, u, target, hu, rfl⟩ := exec_next h
  · exact ⟨fun _ => ⟨rfl, rfl⟩, fun hf => absurd rfl hf, fun hf => absurd rfl hf⟩
  · exact ⟨fun hf => absurd hf (hu.not_faulted hs), fun _ _ => ⟨toNat_advance s.pc i.length, rfl⟩,
      fun _ ht' => absurd (ht.symm.trans ht') nofun⟩
  · exact ⟨fun hf => absurd hf (hu.not_faulted hs), fun _ ht' => absurd (ht.symm.trans ht') nofun, fun _ _ => rfl⟩

/-- Settles O22: the step's tests and its fetch do not read the cycle total, and no instruction does. -/
theorem cycleTotalIsNotRead : Obligations.CycleTotalIsNotRead :=
  fun s n => step_withUnread n s

/-- What `new` constructs is legal (R50, R270). -/
theorem create_inv {cfg : Config} {r : ResetInput} (hc : cfg.valid) (hr : r.valid cfg) : (State.create cfg r).Inv where
  cfg_valid := hc
  mem_wf := hr.1
  mem_inRange := hr.2
  fault_iff := by simp [State.create]
  fault_wf := nofun

/-- Settles O15: the reset state is one that `new` constructs, with an empty memory list. -/
theorem constructedStateIsLegal : Obligations.ConstructedStateIsLegal :=
  ⟨fun _ _ => create_inv, create_inv (by decide) ⟨⟨.nil, nofun⟩, nofun⟩, rfl⟩

/-- The high half of a pair is its high byte (R22). -/
theorem getReg_setPair_hi (s : State) (p : Pair) (w : Word) : (s.setPair p w).getReg (pairHi p) = hiByte w := by
  cases p <;> rfl

theorem getReg_setPair_lo (s : State) (p : Pair) (w : Word) : (s.setPair p w).getReg (pairLo p) = loByte w := by
  cases p <;> rfl

/-- Settles O54, from the read-after-write laws of registers and pairs. -/
theorem registerRoundTrip : Obligations.RegisterRoundTrip := by
  intro s r r' v p w
  refine ⟨getReg_setReg_same s r v, getReg_setReg_other s r r' v, getPair_setPair s p w, ?_, ?_⟩
  · rw [getReg_setPair_hi, hiByte_toNat]
  · rw [getReg_setPair_lo, loByte_toNat]

theorem hostNew_of_valid {n : Nat} {tbl : Table} {ana : AnaAc} {r : ResetInput} (h : 1 ≤ n ∧ n ≤ 65536) :
    hostNew n tbl ana r = .ok (State.create ⟨n, tbl, ana⟩ r) :=
  if_pos h

theorem hostNew_of_not_valid {n : Nat} {tbl : Table} {ana : AnaAc} {r : ResetInput} (h : ¬ (1 ≤ n ∧ n ≤ 65536)) :
    hostNew n tbl ana r = .error .sizeRefused :=
  if_neg h

theorem hostInject_of_lt {n : Nat} {s : State} (h : n < 8) : hostInject n s = .ok { s with pending := some ⟨n, h⟩ } :=
  dif_pos h

theorem hostInject_of_ge {n : Nat} {s : State} (h : 8 ≤ n) : hostInject n s = .error .invalidVector :=
  dif_neg (Nat.not_lt.2 h)

/-- Settles O57: both operations test their argument first. -/
theorem newAndInject : Obligations.NewAndInject := by
  refine ⟨fun n tbl ana r => ⟨fun h => ⟨_, hostNew_of_valid h, ?_⟩, hostNew_of_not_valid⟩,
    fun n s => ⟨hostInject_of_lt, hostInject_of_ge⟩⟩
  simp [State.create]

end Sys2Proof.Machine
end

section
/-! The table read back (30_encoding.md R98 to R102, R107): an instruction of a table is its entry at the instruction's own opcode
byte, and the opcode byte alone decides whether an entry is the Unimplemented one. -/

namespace Sys2Proof

/-- The twelve bytes of R101 are those the full map leaves without an instruction, whatever operand bytes follow: which arm of the
map answers is decided by the three fields of the opcode byte, and the operand bytes stay unevaluated. -/
theorem bound8080_isNone (op b2 b3 : Byte) : (bound8080 op b2 b3).isNone = unimplementedBytes.contains op := by
  rw [← opcodeOf_of_fields op, bound8080_opcodeOf]
  generalize op.extractLsb' 6 2 = q, op.extractLsb' 3 3 = y, op.extractLsb' 0 3 = z
  revert q y z
  exact of_decide_eq_true rfl

theorem decodeQ0_ne_unimplemented (y z : BitVec 3) (b2 b3 op : Byte) : decodeQ0 y z b2 b3 ≠ some (.unimplemented op) := by
  unfold decodeQ0
  repeat' split
  all_goals simp

theorem decodeMov_ne_unimplemented (dst src : R8) (op : Byte) : decodeMov dst src ≠ .unimplemented op := by
  cases dst <;> cases src <;> nofun

theorem decodeQ2_ne_unimplemented (y z : BitVec 3) (op : Byte) : decodeQ2 y z ≠ .unimplemented op := by
  unfold decodeQ2
  split <;> nofun

theorem decodeQ3_ne_unimplemented (y z : BitVec 3) (b2 b3 op : Byte) : decodeQ3 y z b2 b3 ≠ some (.unimplemented op) := by
  unfold decodeQ3 Instr.rcond Instr.jcond Instr.ccond
  repeat' split
  all_goals simp

/-- The full map has no entry for the Unimplemented instruction: it answers none instead (R101). -/
theorem bound8080_ne_unimplemented (op b2 b3 op' : Byte) : bound8080 op b2 b3 ≠ some (.unimplemented op') := by
  unfold bound8080
  split
  · exact decodeQ0_ne_unimplemented _ _ _ _ _
  · exact fun h => decodeMov_ne_unimplemented _ _ _ (Option.some.inj h)
  · exact fun h => decodeQ2_ne_unimplemented _ _ _ (Option.some.inj h)
  · exact decodeQ3_ne_unimplemented _ _ _ _ _

/-- The five bytes of the small table are bound in the full map (R102). -/
theorem unimplementedBytes_contains_eq_false {op : Byte} :
    sourceBytes.contains op = true → unimplementedBytes.contains op = false := by
  revert op; decide

theorem getD_bound8080_eq_unimplemented_iff {op b2 b3 op' : Byte} :
    (bound8080 op b2 b3).getD (.unimplemented op) = .unimplemented op' ↔ op = op' ∧ unimplementedBytes.contains op = true := by
  rw [← bound8080_isNone op b2 b3]
  cases h : bound8080 op b2 b3 with
  | none => simp
  | some i =>
    have hi : i ≠ .unimplemented op' := fun hi => bound8080_ne_unimplemented op b2 b3 op' (h.trans (congrArg some hi))
    simp [hi]

/-- An entry is the Unimplemented one exactly on the bytes the table does not bind, whatever operand bytes follow (R107). -/
theorem lookup_eq_unimplemented_iff {t : Table} {op b2 b3 op' : Byte} :
    lookup t op b2 b3 = .unimplemented op' ↔ op = op' ∧ (Instr.unimplemented op).wf t = true := by
  cases t with
  | t8080 => exact getD_bound8080_eq_unimplemented_iff
  | tsrc =>
    cases h : sourceBytes.contains op with
    | true =>
      simp only [lookup, Instr.wf, h, if_true, getD_bound8080_eq_unimplemented_iff, unimplementedBytes_contains_eq_false h,
        Bool.not_true]
    | false =>
      simp only [lookup, Instr.wf, h, Bool.false_eq_true, if_false, Instr.unimplemented.injEq, Bool.not_false, and_true]

/-- The full map has every instruction but the Unimplemented entry at its own opcode byte, with its own operands (R100). -/
theorem bound8080_opcode {i : Instr} (hop : ∀ op, i ≠ .unimplemented op) :
    bound8080 i.opcode (i.operands.getD 0 0) (i.operands.getD 1 0) = some i := by
  cases i with
  | unimplemented op => exact absurd rfl (hop op)
  | movRR dst src => cases dst <;> cases src <;> rfl
  | movRM r | movMR r => cases r <;> rfl
  | ldax p | stax p | push p | pop p => cases p <;> rfl
  | add o | adc o | sub o | sbb o | ana o | xra o | ora o | cmp o | inr o | dcr o =>
    cases o with
    | reg r => cases r <;> rfl
    | m => rfl
  | inx x | dcx x | dad x =>
    cases x with
    | pair p => cases p <;> rfl
    | sp => rfl
  | rst n => revert n; decide
  | mviR r v => cases r <;> simp [Instr.opcode, Instr.operands, bound8080_opcodeOf, decodeQ0, Reg.code, R8.ofCode]
  | lxi x w =>
    cases x with
    | pair p => cases p <;> simp [Instr.opcode, Instr.operands, bound8080_opcodeOf, decodeQ0, PairSP.code, Pair.code, ppField]
    | sp => simp [Instr.opcode, Instr.operands, bound8080_opcodeOf, decodeQ0, PairSP.code, ppField]
  | lda w | sta w | lhld w | shld w | mviM v => simp [Instr.opcode, Instr.operands, bound8080_opcodeOf, decodeQ0, R8.ofCode]
  | jnz w | jz w | jnc w | jc w | jpo w | jpe w | jp w | jm w | cnz w | cz w | cnc w | cc w | cpo w | cpe w | cp w | cm w =>
    simp [Instr.opcode, Instr.operands, bound8080_opcodeOf, decodeQ3, Instr.jcond, Instr.ccond]
  | jmp w | call w | adi v | aci v | sui v | sbi v | ani v | xri v | ori v | cpi v | inp v | out v =>
    simp [Instr.opcode, Instr.operands, bound8080_opcodeOf, decodeQ3]
  | _ => rfl

/-- The instructions of the small table stand at its five opcode bytes (R102, R108). -/
theorem sourceBytes_contains_opcode {i : Instr} (h : i.inSource = true) : sourceBytes.contains i.opcode = true := by
  cases i with
  | nop => rfl
  | lxi x w | stax x | dcr x | dad x =>
    obtain rfl := eq_of_beq h
    rfl
  | _ => exact absurd h nofun

/-- Every instruction of a table is the table's entry at its own opcode byte, with its own operands (R107). -/
theorem lookup_opcode {t : Table} {i : Instr} (h : i.wf t = true) :
    lookup t i.opcode (i.operands.getD 0 0) (i.operands.getD 1 0) = i := by
  by_cases hop : ∃ op, i = .unimplemented op
  · obtain ⟨op, rfl⟩ := hop
    exact lookup_eq_unimplemented_iff.2 ⟨rfl, h⟩
  · have hop' : ∀ op, i ≠ .unimplemented op := fun op hi => hop ⟨op, hi⟩
    have hb := bound8080_opcode hop'
    cases t with
    | t8080 => simp only [lookup, hb, Option.getD_some]
    | tsrc =>
      have hsrc : i.inSource = true := by
        cases i with
        | unimplemented op => exact absurd rfl (hop' op)
        | _ => exact h
      simp only [lookup, sourceBytes_contains_opcode hsrc, hb, if_true, Option.getD_some]

end Sys2Proof
end

section
/-! What an instruction does to memory, said once for every instruction (20_memory.md R61 to R65, R69): the bytes it may store to,
and the accesses it may be refused. -/

namespace Sys2Proof.Machine

/-- The memory is that of `s` but for bytes stored at addresses of the list, each in range. -/
inductive Written (s : State) (xs : List Nat) : Memory → Prop where
  | refl : Written s xs s.mem
  | write {m : Memory} {x : Nat} (hm : Written s xs m) (hx : x ∈ xs) (hr : s.inRange x) (v : Byte) : Written s xs (m.write x v)

section
variable {s : State} {xs : List Nat} {m : Memory}

/-- Every byte outside the list reads as before. -/
theorem Written.read_eq (h : Written s xs m) {y : Nat} (hy : y ∉ xs) : m.read y = s.mem.read y := by
  induction h with
  | refl => rfl
  | write _ hx _ v ih => rw [Memory.read_write_other _ _ _ _ (ne_of_mem_of_not_mem hx hy).symm, ih]

theorem Written.eq_of_nil (h : Written s [] m) : m = s.mem := by
  cases h with
  | refl => rfl
  | write _ hx => cases hx

theorem Written.wf (h : Written s xs m) (hs : Memory.wf s.mem) : Memory.wf m := by
  induction h with
  | refl => exact hs
  | write _ _ _ v ih => exact Memory.wf_write _ _ _ ih

theorem Written.inRange (h : Written s xs m) (hs : ∀ cell ∈ s.mem, s.inRange cell.1) : ∀ cell ∈ m, s.inRange cell.1 := by
  induction h with
  | refl => exact hs
  | write _ _ hr v ih =>
    intro cell hc
    obtain rfl | hc := Memory.mem_write _ _ _ hc
    · exact hr
    · exact ih cell hc

end

/-- `u` has the fault record of `s`, and its memory but for bytes stored at addresses of the list. -/
structure Stores (s : State) (xs : List Nat) (u : State) : Prop where
  fault : u.fault = s.fault
  mem : Written s xs u.mem

theorem Stores.refl (s : State) (xs : List Nat) : Stores s xs s := ⟨rfl, .refl⟩

/-- An update of anything but memory and the fault record stores nothing more. -/
theorem Stores.update {s u v : State} {xs : List Nat} (h : Stores s xs u) (hm : v.mem = u.mem) (hf : v.fault = u.fault) :
    Stores s xs v :=
  ⟨hf.trans h.fault, hm ▸ h.mem⟩

theorem Stores.unchanged {s t : State} {xs : List Nat} (hm : t.mem = s.mem) (hf : t.fault = s.fault) : Stores s xs t :=
  (Stores.refl s xs).update hm hf

/-- A refused access of an instruction's rule (R244): the address is out of range and at most 0x10000. -/
structure State.Refuses (s : State) (f : AccessFault) : Prop where
  notInRange : s.cfg.memSize ≤ f.addr
  le : f.addr ≤ 0x10000
  data : f.access = .read ∨ f.access = .write

/-- The first address out of range of a 2-byte access at a 16-bit address: 0x10000 at most (R72). -/
theorem wordFaultAddr_bounds {s : State} {w : Word} (h : ¬ (s.inRange w.toNat ∧ s.inRange (w.toNat + 1))) :
    s.cfg.memSize ≤ s.wordFaultAddr w.toNat ∧ s.wordFaultAddr w.toNat ≤ 0x10000 := by
  have hw := w.isLt
  unfold State.wordFaultAddr
  split <;> omega

/-- A computation on `s` that either is refused an access or yields an answer with the property `P`. -/
def Accesses {α : Type} (s : State) (e : Except AccessFault α) (P : α → Prop) : Prop :=
  (∀ f, e = .error f → s.Refuses f) ∧ Yields e P

section
variable {s : State} {α β : Type} {xs : List Nat}

theorem Accesses.ok {a : α} {P : α → Prop} (h : P a) : Accesses s (.ok a) P := ⟨nofun, .ok h⟩

theorem Accesses.bind {e : Except AccessFault α} {k : α → Except AccessFault β} {Q : α → Prop} {P : β → Prop}
    (he : Accesses s e Q) (hk : ∀ a, Q a → Accesses s (k a) P) : Accesses s (e >>= k) P := by
  refine ⟨fun f hf => ?_, he.2.bind fun a ha => (hk a ha).2⟩
  obtain hf | ⟨a, ha, hf⟩ := bind_eq_error.1 hf
  · exact he.1 f hf
  · exact (hk a (he.2 a ha)).1 f hf

/-! The accesses that rules are made of. -/

theorem memRead1_accesses {w : Word} : Accesses s (s.memRead1 .read w.toNat) fun _ => True := by
  refine ⟨fun f hf => ?_, fun _ _ => trivial⟩
  obtain ⟨hr, rfl⟩ := memRead1_eq_error.1 hf
  exact ⟨Nat.not_lt.1 hr, w.isLt.le, .inl rfl⟩

theorem memRead2_accesses {w : Word} : Accesses s (s.memRead2 .read w.toNat) fun _ => True := by
  refine ⟨fun f hf => ?_, fun _ _ => trivial⟩
  obtain ⟨hr, rfl⟩ := memRead2_eq_error.1 hf
  obtain ⟨hlo, hhi⟩ := wordFaultAddr_bounds hr
  exact ⟨hlo, hhi, .inl rfl⟩

theorem memWrite1_accesses {w : Word} {v : Byte} (hx : w.toNat ∈ xs) :
    Accesses s (s.memWrite1 .write w.toNat v) (Stores s xs) := by
  refine ⟨fun f hf => ?_, fun t ht => ?_⟩
  · obtain ⟨hr, rfl⟩ := memWrite1_eq_error.1 hf
    exact ⟨Nat.not_lt.1 hr, w.isLt.le, .inr rfl⟩
  · obtain ⟨hr, rfl⟩ := memWrite1_eq_ok.1 ht
    exact ⟨rfl, .write .refl hx hr v⟩

/-- What a completed 2-byte store leaves, of memory and fault record. -/
theorem memWrite2_stores {t : State} {acc : Access} {x : Nat} {v : Word} (h : s.memWrite2 acc x v = .ok t) :
    Stores s [x, x + 1] t := by
  obtain ⟨⟨h0, h1⟩, rfl⟩ := memWrite2_eq_ok.1 h
  exact ⟨rfl, .write (.write .refl (by simp) h0 _) (by simp) h1 _⟩

theorem push16_stores {t : State} {acc : Access} {v : Word} (h : s.push16 acc v = .ok t) :
    Stores s [(s.sp - 2).toNat, (s.sp - 2).toNat + 1] t := by
  obtain ⟨u, hu, ht⟩ := bind_eq_ok.1 h
  cases ht
  exact (memWrite2_stores hu).update rfl rfl

theorem memWrite2_accesses {w v : Word} :
    Accesses s (s.memWrite2 .write w.toNat v) (Stores s [w.toNat, w.toNat + 1]) := by
  refine ⟨fun f hf => ?_, fun t => memWrite2_stores⟩
  obtain ⟨hr, rfl⟩ := memWrite2_eq_error.1 hf
  obtain ⟨hlo, hhi⟩ := wordFaultAddr_bounds hr
  exact ⟨hlo, hhi, .inr rfl⟩

theorem push16_accesses {v : Word} :
    Accesses s (s.push16 .write v) (Stores s [(s.sp - 2).toNat, (s.sp - 2).toNat + 1]) :=
  .bind memWrite2_accesses fun _ hu => .ok (hu.update rfl rfl)

theorem pop16_accesses : Accesses s s.pop16 fun r => Stores s xs r.2 :=
  .bind memRead2_accesses fun _ _ => .ok (.unchanged rfl rfl)

theorem readR8_accesses {o : R8} : Accesses s (s.readR8 o) fun _ => True := by
  cases o with
  | reg r => exact .ok trivial
  | m => exact memRead1_accesses

theorem writeR8_accesses {o : R8} {v : Byte} : Accesses s (s.writeR8 o v) (Stores s (o.storeAddrs s)) := by
  cases o with
  | reg r => exact .ok (.unchanged (setReg_mem s r v) (setReg_fault s r v))
  | m => exact memWrite1_accesses (List.mem_singleton_self _)

/-! What the rule of each instruction leaves. -/

/-- The effect leaves memory and the fault record as in `s` but for bytes stored at addresses of the list. -/
inductive Effect.Stores (s : State) (xs : List Nat) : Effect → Prop where
  | advance {u : State} (hu : Machine.Stores s xs u) : Effect.Stores s xs (.advance u)
  | redirect {u : State} {target : Word} (hu : Machine.Stores s xs u) : Effect.Stores s xs (.redirect u target)

theorem jumpIf_accesses {cnd : Cond} {w : Word} : Accesses s (jumpIf cnd w s) (Effect.Stores s []) := by
  unfold jumpIf
  split
  · exact .ok (.redirect (.refl s _))
  · exact .ok (.advance (.refl s _))

theorem callTo_accesses {w : Word} :
    Accesses s (callTo w s) (Effect.Stores s [(s.sp - 2).toNat, (s.sp - 2).toNat + 1]) :=
  .bind push16_accesses fun _ hu => .ok (.redirect hu)

/-- R204: a conditional call stores only when it is taken. -/
theorem callIf_accesses {cnd : Cond} {w : Word} :
    Accesses s (callIf cnd w s)
      (Effect.Stores s (if s.fl.cond cnd then [(s.sp - 2).toNat, (s.sp - 2).toNat + 1] else [])) := by
  unfold callIf
  split
  · exact callTo_accesses
  · exact .ok (.advance (.refl s _))

theorem returnFrom_accesses : Accesses s (returnFrom s) (Effect.Stores s []) :=
  .bind pop16_accesses fun _ hr => .ok (.redirect hr)

theorem returnIf_accesses {cnd : Cond} : Accesses s (returnIf cnd s) (Effect.Stores s []) := by
  unfold returnIf
  split
  · exact returnFrom_accesses
  · exact .ok (.advance (.refl s _))

end

/-- Every meaning but that of the Unimplemented entry is `finish` of an effect that stores to the instruction's store addresses
and to no other, or is refused an access (R69, R242). -/
theorem exec_accesses (i : Instr) (s : State) (hop : ∀ op, i ≠ .unimplemented op) :
    ∃ e, exec i s = finish i s e ∧ Accesses s e (Effect.Stores s (i.storeAddrs s)) := by
  cases i with
  | unimplemented op => exact absurd rfl (hop op)
  | nop | hlt | ei | di | xchg | dad | inp | out | sphl =>
    refine ⟨_, rfl, .ok (.advance ?_)⟩
    exact .unchanged rfl rfl
  | adi | aci | sui | sbi | ani | xri | ori | daa =>
    exact ⟨_, rfl, .ok (.advance (.unchanged (setAcc_mem s _) (setAcc_fault s _)))⟩
  | cpi => exact ⟨_, rfl, .ok (.advance (.unchanged (setCompare_mem s _) (setCompare_fault s _)))⟩
  | rlc | rrc | ral | rar =>
    exact ⟨_, rfl, .ok (.advance (.unchanged (setRotate_mem s _) (setRotate_fault s _)))⟩
  | cmc | stc => exact ⟨_, rfl, .ok (.advance (.unchanged (setCarry_mem s _) (setCarry_fault s _)))⟩
  | jmp | pchl => exact ⟨_, rfl, .ok (.redirect (.refl s []))⟩
  | movRR dst | mviR dst =>
    exact ⟨_, rfl, .ok (.advance (.unchanged (setReg_mem s dst _) (setReg_fault s dst _)))⟩
  | lxi x | inx x | dcx x =>
    exact ⟨_, rfl, .ok (.advance (.unchanged (setRP_mem s _ x) (setRP_fault s _ x)))⟩
  | cma => exact ⟨_, rfl, .ok (.advance (.unchanged (setReg_mem s .a _) (setReg_fault s .a _)))⟩
  | movRM dst =>
    exact ⟨_, rfl, .bind memRead1_accesses fun v _ => .ok (.advance (.unchanged (setReg_mem s dst v) (setReg_fault s dst v)))⟩
  | lda | ldax =>
    exact ⟨_, rfl, .bind memRead1_accesses fun _ _ => .ok (.advance (.unchanged rfl rfl))⟩
  | lhld => exact ⟨_, rfl, .bind memRead2_accesses fun _ _ => .ok (.advance (.unchanged rfl rfl))⟩
  | add | adc | sub | sbb | ana | xra | ora =>
    exact ⟨_, rfl, .bind readR8_accesses fun _ _ =>
      .ok (.advance (.unchanged (setAcc_mem s _) (setAcc_fault s _)))⟩
  | cmp =>
    exact ⟨_, rfl, .bind readR8_accesses fun _ _ =>
      .ok (.advance (.unchanged (setCompare_mem s _) (setCompare_fault s _)))⟩
  | movMR | mviM | sta | stax =>
    exact ⟨_, rfl, .bind (memWrite1_accesses (List.mem_singleton_self _)) fun _ hu => .ok (.advance hu)⟩
  | shld => exact ⟨_, rfl, .bind memWrite2_accesses fun _ hu => .ok (.advance hu)⟩
  | inr | dcr =>
    exact ⟨_, rfl, .bind readR8_accesses fun _ _ =>
      .bind writeR8_accesses fun _ hu => .ok (.advance (hu.update rfl rfl))⟩
  | jnz | jz | jnc | jc | jpo | jpe | jp | jm => exact ⟨_, rfl, jumpIf_accesses⟩
  | call => exact ⟨_, rfl, callTo_accesses⟩
  | cnz | cz | cnc | cc | cpo | cpe | cp | cm => exact ⟨_, rfl, callIf_accesses⟩
  | ret => exact ⟨_, rfl, returnFrom_accesses⟩
  | rnz | rz | rnc | rc | rpo | rpe | rp | rm => exact ⟨_, rfl, returnIf_accesses⟩
  | rst => exact ⟨_, rfl, .bind push16_accesses fun _ hu => .ok (.redirect hu)⟩
  | push | pushPsw => exact ⟨_, rfl, .bind push16_accesses fun _ hu => .ok (.advance hu)⟩
  | pop p =>
    exact ⟨_, rfl, .bind pop16_accesses fun r hr =>
      .ok (.advance (hr.update (setPair_mem r.2 r.1 p) (setPair_fault r.2 r.1 p)))⟩
  | popPsw => exact ⟨_, rfl, .bind pop16_accesses fun _ hr => .ok (.advance (hr.update rfl rfl))⟩
  | xthl =>
    exact ⟨_, rfl, .bind memRead2_accesses fun _ _ =>
      .bind memWrite2_accesses fun _ hu => .ok (.advance (hu.update rfl rfl))⟩

/-- All that `exec` can answer, of memory and the fault record: the fault of the Unimplemented entry; the fault of a refused access;
or a state that stores to the instruction's store addresses and to no other. -/
theorem exec_stores {i : Instr} {s t : State} (h : exec i s = .next t) :
    (∃ op, i = .unimplemented op ∧ t = s.takeFault (.unimplementedOpcode s.pc op)) ∨
    (∃ f, s.Refuses f ∧ t = s.takeFault (.addressOutOfRange s.pc (some i.opcode) f.addr f.access)) ∨
    Stores s (i.storeAddrs s) t := by
  by_cases hop : ∃ op, i = .unimplemented op
  · obtain ⟨op, rfl⟩ := hop
    exact .inl ⟨op, rfl, (Host.Outcome.next.inj h).symm⟩
  · obtain ⟨e, he, hf, hok⟩ := exec_accesses i s fun op hi => hop ⟨op, hi⟩
    obtain ⟨f, rfl, rfl⟩ | ⟨u, rfl, rfl⟩ | ⟨u, target, rfl, rfl⟩ := finish_next (he ▸ h)
    · exact .inr (.inl ⟨f, hf f rfl, rfl⟩)
    · obtain ⟨hu⟩ := hok _ rfl
      exact .inr (.inr (hu.update rfl rfl))
    · obtain - | ⟨hu⟩ := hok _ rfl
      exact .inr (.inr (hu.update rfl rfl))

/-- Settles O20: a fault stores nothing, and a completing instruction stores to its store addresses only. -/
theorem memoryOutsideStoreUnchanged : Obligations.MemoryOutsideStoreUnchanged := by
  intro i s t h
  obtain ⟨op, -, rfl⟩ | ⟨f, -, rfl⟩ | hst := exec_stores h
  · exact ⟨fun _ _ => rfl, fun _ => rfl⟩
  · exact ⟨fun _ _ => rfl, fun _ => rfl⟩
  · exact ⟨fun x hx => hst.mem.read_eq hx, fun hnil => (hnil ▸ hst.mem).eq_of_nil⟩

end Sys2Proof.Machine
end

section
/-! Every step keeps a legal state legal: what a refused fetch records (R123, R124, R244), and the invariant through the answers of
a step. -/

namespace Sys2Proof.Machine

section
variable {s t : State} {r : FaultRecord}

/-- Operand bytes are read in address order, so from within memory the first refused address is `MEM_SIZE` itself (R124). -/
theorem readOperands_eq_error {n x : Nat} {f : AccessFault} (hx : x ≤ s.cfg.memSize) (h : s.readOperands x n = .error f) :
    f = ⟨s.cfg.memSize, .operand⟩ := by
  induction n generalizing x with
  | zero => cases h
  | succ n ih =>
    obtain h | ⟨v, hv, h⟩ := bind_eq_error.1 h
    · obtain ⟨hr, rfl⟩ := memRead1_eq_error.1 h
      rw [Nat.le_antisymm hx (Nat.not_lt.1 hr)]
    · obtain h | ⟨vs, -, h⟩ := bind_eq_error.1 h
      · exact ih (memRead1_eq_ok.1 hv).1 h
      · cases h

/-- What a refused fetch records: the opcode fetch its own address, an operand fetch `MEM_SIZE` and the opcode byte (R244). -/
theorem fetchInstr_eq_error (h : s.fetchInstr = .error r) :
    (¬ s.inRange s.pc.toNat ∧ r = .addressOutOfRange s.pc none s.pc.toNat .fetch) ∨
    (s.inRange s.pc.toNat ∧
      r = .addressOutOfRange s.pc (some (s.mem.read s.pc.toNat)) s.cfg.memSize .operand) := by
  unfold State.fetchInstr at h
  split at h
  · next f hf =>
    obtain ⟨hr, rfl⟩ := memRead1_eq_error.1 hf
    exact .inl ⟨hr, (Except.error.inj h).symm⟩
  · next op hop =>
    obtain ⟨hr, rfl⟩ := memRead1_eq_ok.1 hop
    split at h
    · next f hf =>
      obtain rfl := readOperands_eq_error hr hf
      exact .inr ⟨hr, (Except.error.inj h).symm⟩
    · cases h

/-- A completed fetch: the opcode byte at `pc` is in range, and the instruction is its table entry with the operand bytes read. -/
theorem fetchInstr_eq_ok {i : Instr} :
    s.fetchInstr = .ok i ↔ s.inRange s.pc.toNat ∧
      ∃ vs, s.readOperands (s.pc.toNat + 1) (opcodeLength s.cfg.table (s.mem.read s.pc.toNat) - 1) = .ok vs ∧
        i = lookup s.cfg.table (s.mem.read s.pc.toNat) (vs.getD 0 0) (vs.getD 1 0) := by
  unfold State.fetchInstr
  by_cases hr : s.inRange s.pc.toNat
  · rw [memRead1_of_inRange hr]
    cases h : s.readOperands (s.pc.toNat + 1) (opcodeLength s.cfg.table (s.mem.read s.pc.toNat) - 1) <;>
      simp [h, hr, eq_comm]
  · rw [memRead1_of_not_inRange hr]
    simp [hr]

/-! The fault records that a step writes are legal (R244). -/

theorem fetchInstr_error_wf (hc : s.cfg.valid) (h : s.fetchInstr = .error r) : r.wf s.cfg := by
  obtain ⟨hr, rfl⟩ | ⟨-, rfl⟩ := fetchInstr_eq_error h
  · exact ⟨Nat.not_lt.1 hr, s.pc.isLt.le, by simp⟩
  · exact ⟨Nat.le_refl _, hc.2, by simp⟩

/-- A fetch that yields the Unimplemented entry has read a byte that the table does not bind, with any operand bytes (R107). -/
theorem fetchInstr_unimplemented_wf {op : Byte} (h : s.fetchInstr = .ok (.unimplemented op)) :
    (FaultRecord.unimplementedOpcode s.pc op).wf s.cfg := by
  obtain ⟨-, vs, -, hi⟩ := fetchInstr_eq_ok.1 h
  obtain ⟨rfl, hwf⟩ := lookup_eq_unimplemented_iff.1 hi.symm
  exact lookup_eq_unimplemented_iff.2 ⟨rfl, hwf⟩

theorem State.Refuses.wf {f : AccessFault} (h : s.Refuses f) (op : Byte) :
    (FaultRecord.addressOutOfRange s.pc (some op) f.addr f.access).wf s.cfg := by
  obtain ⟨hlo, hhi, hacc⟩ := h
  refine ⟨hlo, hhi, ?_⟩
  obtain hacc | hacc := hacc <;> simp [hacc]

/-! The invariant through each answer of a step. -/

theorem State.Inv.fault_eq_none (h : s.Inv) (hs : s.status = .running) : s.fault = none := by
  have hf := h.fault_iff
  simpa [hs] using hf

theorem State.Inv.takeFault (h : s.Inv) (hr : r.wf s.cfg) : (s.takeFault r).Inv where
  cfg_valid := h.cfg_valid
  mem_wf := h.mem_wf
  mem_inRange := h.mem_inRange
  fault_iff := by simp
  fault_wf r' hr' := Option.some.inj hr' ▸ hr

/-- A state that stores in range, writes no fault record and does not become Faulted is legal. -/
theorem State.Inv.stores {xs : List Nat} (h : s.Inv) (hs : s.status = .running) (hcfg : t.cfg = s.cfg) (ht : t.status ≠ .faulted)
    (hst : Stores s xs t) : t.Inv where
  cfg_valid := hcfg ▸ h.cfg_valid
  mem_wf := hst.mem.wf h.mem_wf
  mem_inRange := hcfg ▸ hst.mem.inRange h.mem_inRange
  fault_iff := by simp [hst.fault, h.fault_eq_none hs, ht]
  fault_wf r hr := by simp [hst.fault, h.fault_eq_none hs] at hr

theorem interruptEntry_inv (h : s.Inv) (hs : s.status = .running) (n : VecNum) : (s.interruptEntry n).Inv := by
  unfold State.interruptEntry
  split
  · next f hf =>
    obtain ⟨hr, rfl⟩ := push16_eq_error.1 hf
    obtain ⟨hlo, hhi⟩ := wordFaultAddr_bounds hr
    exact h.takeFault ⟨hlo, hhi, by simp⟩
  · next t ht =>
    have hst := push16_stores ht
    obtain ⟨-, rfl⟩ := push16_eq_ok.1 ht
    exact h.stores hs rfl (by simp [hs]) (hst.update rfl rfl)

/-- An instruction that was fetched: its faults are legal records, and completing it stores in range. -/
theorem exec_inv {i : Instr} (h : s.Inv) (hs : s.status = .running) (hi : s.fetchInstr = .ok i) (ht : exec i s = .next t) :
    t.Inv := by
  obtain ⟨op, rfl, rfl⟩ | ⟨f, hf, rfl⟩ | hst := exec_stores ht
  · exact h.takeFault (fetchInstr_unimplemented_wf hi)
  · exact h.takeFault (hf.wf i.opcode)
  · obtain ⟨r, rfl⟩ | hfr := exec_frame ht
    · exact absurd (hst.fault.trans (h.fault_eq_none hs)) (by simp)
    · exact h.stores hs hfr.cfg (hfr.not_faulted hs) hst

end

/-- Settles O14, through the three answers of a step. -/
theorem stepKeepsLegalState : Obligations.StepKeepsLegalState := by
  intro s t h ht
  obtain ⟨hs, ⟨n, -, rfl⟩ | ⟨-, r, hr, rfl⟩ | ⟨-, i, hi, hexec⟩⟩ := step_next ht
  · exact interruptEntry_inv h hs n
  · exact h.takeFault (fetchInstr_error_wf h.cfg_valid hr)
  · exact exec_inv h hs hi hexec

end Sys2Proof.Machine
end

section
/-! The memory accesses and the host's `load`, seen through reads (20_memory.md R62 to R67, R72), and a store that the next fetch
reads (R75, R78). -/

namespace Sys2Proof

theorem hiByte_eq_ofNat (w : Word) : hiByte w = BitVec.ofNat 8 (w.toNat / 256) := by
  rw [← hiByte_toNat, BitVec.ofNat_toNat, BitVec.setWidth_eq]

theorem loByte_eq_ofNat (w : Word) : loByte w = BitVec.ofNat 8 w.toNat :=
  BitVec.eq_of_toNat_eq (by rw [loByte_toNat, BitVec.toNat_ofNat])

end Sys2Proof

namespace Sys2Proof.Machine

section
variable {s t : State} {x : Nat} {acc : Access}

/-- A byte stored in range reads back (R62, R63). -/
theorem memRead1_of_storedByte {v : Byte} (hst : s.storedByte t x v) (h : t.inRange x) : t.memRead1 acc x = .ok v := by
  rw [memRead1_of_inRange h, hst.1]

/-- A word stored in range reads back, low byte first (R64, R65, R67). -/
theorem memRead2_of_storedWord {hi lo : Byte} (hst : s.storedWord t x hi lo) (h : t.inRange x ∧ t.inRange (x + 1)) :
    t.memRead2 acc x = .ok (concat hi lo) := by
  obtain ⟨hlo, hhi, -⟩ := hst
  rw [memRead2_of_inRange h, hlo, hhi]

end

/-- Settles O55: what a write leaves, seen through reads, and read back. -/
theorem memoryAccessLaws : Obligations.MemoryAccessLaws := by
  intro s x v w acc
  refine ⟨fun h => ?_, fun h => ⟨memRead1_of_not_inRange h, memWrite1_of_not_inRange h⟩, fun h => ?_,
    fun h => ⟨memRead2_of_not_inRange h, memWrite2_of_not_inRange h⟩⟩
  · have hst : s.storedByte { s with mem := s.mem.write x v } x v := storedByte_write rfl
    exact ⟨memRead1_of_inRange h, _, memWrite1_of_inRange h, rfl, hst, memRead1_of_storedByte hst h⟩
  · have hst : s.storedWord { s with mem := (s.mem.write x (loByte w)).write (x + 1) (hiByte w) } x (hiByte w) (loByte w) :=
      storedWord_write rfl
    rw [← hiByte_eq_ofNat, ← loByte_eq_ofNat]
    refine ⟨memRead2_of_inRange h, _, memWrite2_of_inRange h, rfl, hst, ?_⟩
    rw [memRead2_of_storedWord hst h, concat_hi_lo]

theorem hostLoad_of_fits {bytes : List Byte} {base : Nat} {s : State} (h : base + bytes.length ≤ s.cfg.memSize) :
    hostLoad bytes base s = .ok { s with mem := s.mem.writeAll base bytes } :=
  if_neg (Nat.not_lt.2 h)

theorem hostLoad_of_not_fits {bytes : List Byte} {base : Nat} {s : State} (h : s.cfg.memSize < base + bytes.length) :
    hostLoad bytes base s = .error .loadOutOfRange :=
  if_pos h

/-- The image's byte inside its range, the old byte outside (R66). -/
theorem read_writeAll_getD (m : Memory) (x y : Nat) (vs : List Byte) :
    Memory.read (Memory.writeAll m x vs) y = if x ≤ y ∧ y < x + vs.length then vs.getD (y - x) 0 else Memory.read m y := by
  rw [Memory.read_writeAll]
  by_cases h : x ≤ y ∧ y < x + vs.length
  · have hlt : y - x < vs.length := by omega
    rw [if_pos h, dif_pos ⟨h.1, hlt⟩, List.getD_eq_getElem _ _ hlt]
  · rw [if_neg h, dif_neg (by omega)]

/-- Settles O56: `load` tests the fit first. -/
theorem loadCopiesOrRefuses : Obligations.LoadCopiesOrRefuses := by
  intro s bytes base
  exact ⟨fun h => ⟨_, hostLoad_of_fits h, rfl, fun x => read_writeAll_getD s.mem base x bytes⟩, hostLoad_of_not_fits⟩

/-! Word accesses at the top of a full memory (R72). -/

section
variable {s : State} (hs : s.cfg.memSize = 65536)
include hs

/-- The second byte of a word at 0xFFFF is at 0x10000, out of range of the largest memory: the access does not wrap. -/
theorem word_at_top_not_inRange : ¬ (s.inRange (0xFFFF : Word).toNat ∧ s.inRange ((0xFFFF : Word).toNat + 1)) := by
  simp [hs]

theorem wordFaultAddr_at_top : s.wordFaultAddr (0xFFFF : Word).toNat = 0x10000 := by
  simp [State.wordFaultAddr, hs]

theorem memRead2_at_top (acc : Access) : s.memRead2 acc (0xFFFF : Word).toNat = .error ⟨0x10000, acc⟩ := by
  rw [memRead2_of_not_inRange (word_at_top_not_inRange hs), wordFaultAddr_at_top hs]

theorem memWrite2_at_top (acc : Access) (w : Word) : s.memWrite2 acc (0xFFFF : Word).toNat w = .error ⟨0x10000, acc⟩ := by
  rw [memWrite2_of_not_inRange (word_at_top_not_inRange hs), wordFaultAddr_at_top hs]

theorem pop16_at_top (hsp : s.sp = 0xFFFF) : s.pop16 = .error ⟨0x10000, .read⟩ := by
  simp only [State.pop16, hsp, memRead2_at_top hs]
  rfl

/-- A push with SP = 0x0001 stores at 0xFFFF, for SP itself wraps (R220). -/
theorem push16_at_top (hsp : s.sp = 0x0001) (acc : Access) (w : Word) : s.push16 acc w = .error ⟨0x10000, acc⟩ := by
  have hnsp : s.sp - 2 = 0xFFFF := by rw [hsp]; decide
  simp only [State.push16, hnsp, memWrite2_at_top hs]
  rfl

end

/-- A rule whose first access is refused faults with that access (R243). -/
theorem finish_bind_of_error {α : Type} {i : Instr} {s : State} {e : Except AccessFault α} {k : α → Except AccessFault Effect}
    {f : AccessFault} (h : e = .error f) :
    finish i s (e >>= k) = .next (s.takeFault (.addressOutOfRange s.pc (some i.opcode) f.addr f.access)) := by
  rw [h]; rfl

/-- Settles O53: each form's first access is refused at 0x10000. -/
theorem wordAccessAtTopFaults : Obligations.WordAccessAtTopFaults := by
  intro s p w n hs
  refine ⟨finish_bind_of_error (memRead2_at_top hs _), finish_bind_of_error (memWrite2_at_top hs _ _),
    fun hsp => ?_, fun hsp => ?_⟩
  · have hpop := pop16_at_top hs hsp
    have hread : s.memRead2 .read s.sp.toNat = .error ⟨0x10000, .read⟩ := hsp ▸ memRead2_at_top hs .read
    exact ⟨finish_bind_of_error hpop, finish_bind_of_error hpop, finish_bind_of_error hpop, finish_bind_of_error hread⟩
  · have hpush := push16_at_top hs hsp .write
    exact ⟨finish_bind_of_error (hpush _), finish_bind_of_error (hpush _), finish_bind_of_error (hpush _),
      finish_bind_of_error (hpush _)⟩

/-! A store into the instruction stream (R75, R78). -/

theorem step_of_runs {s : State} {i : Instr} (h : s.runs i) : step s = exec i s := by
  obtain ⟨hs, hdue, hi⟩ := h
  simp only [step, hs, hdue, hi]

/-- A one-byte instruction of the table is fetched where its opcode byte stands. -/
theorem fetchInstr_of_length_one {s : State} {i : Instr} (hwf : i.wf s.cfg.table = true) (hlen : i.length = 1)
    (hr : s.inRange s.pc.toNat) (hop : s.mem.read s.pc.toNat = i.opcode) : s.fetchInstr = .ok i := by
  have hnil : i.operands = [] := List.eq_nil_of_length_eq_zero (by have := operands_length i; omega)
  have hi : lookup s.cfg.table i.opcode 0 0 = i := by
    simpa [hnil] using lookup_opcode hwf
  have hoplen : opcodeLength s.cfg.table i.opcode = 1 := (congrArg Instr.length hi).trans hlen
  refine fetchInstr_eq_ok.2 ⟨hr, [], ?_, ?_⟩
  · rw [hop, hoplen]; rfl
  · rw [hop]; exact hi.symm

/-- R142, in range: the store, and `pc` past its one byte. -/
theorem exec_movMR_of_inRange {s : State} (r : Reg) (h : s.inRange s.hl.toNat) :
    exec (.movMR r) s = .next ({ s with mem := s.mem.write s.hl.toNat (s.getReg r) }.after 1 7) := by
  simp only [exec, execMovMR, memWrite1_of_inRange h]
  rfl

/-- Settles O52: after the store the byte at `pc` is the stored one, and the fetch reads memory as it stands. -/
theorem storeSeenByNextFetch : Obligations.StoreSeenByNextFetch := by
  intro s r i hruns hr hhl hwf hlen hop
  have ⟨hs, hdue, _⟩ := hruns
  have hr' : s.inRange (s.pc + 1).toNat := hhl ▸ hr
  have hread : Memory.read (s.mem.write s.hl.toNat (s.getReg r)) (s.pc + 1).toNat = i.opcode := by
    rw [← hhl, Memory.read_write_same, hop]
  exact ⟨_, (step_of_runs hruns).trans (exec_movMR_of_inRange r hr),
    step_of_runs ⟨hs, hdue, fetchInstr_of_length_one hwf hlen hr' hread⟩⟩

end Sys2Proof.Machine
end

section
/-! The decoder and the encoder agree (30_encoding.md R91 to R93, R99, R107): the opcode byte alone decides the length of an entry,
an entry's bytes are those it was looked up with, and `decode` answers the entry of the opcode byte and the operand bytes that
follow it. -/

namespace Sys2Proof

/-! The bound instruction of an opcode byte, in the full map. -/

/-- R92: the opcode bytes of three-byte instructions. -/
def threeByteOpcodes : List Byte :=
  [0x01, 0x11, 0x21, 0x31, 0x22, 0x2A, 0x32, 0x3A, 0xC3, 0xCD, 0xC2, 0xCA, 0xD2, 0xDA, 0xE2, 0xEA, 0xF2, 0xFA,
    0xC4, 0xCC, 0xD4, 0xDC, 0xE4, 0xEC, 0xF4, 0xFC]

/-- R92: the opcode bytes of two-byte instructions. -/
def twoByteOpcodes : List Byte :=
  [0x06, 0x0E, 0x16, 0x1E, 0x26, 0x2E, 0x36, 0x3E, 0xC6, 0xCE, 0xD6, 0xDE, 0xE6, 0xEE, 0xF6, 0xFE, 0xD3, 0xDB]

/-- R92: the length of an opcode of the full map, read off the two lists. -/
def listedLength (op : Byte) : Nat :=
  if op ∈ threeByteOpcodes then 3 else if op ∈ twoByteOpcodes then 2 else 1

/-- A bound instruction stands at its own opcode byte and has its listed length. As in `bound8080_isNone`, the fields of the opcode
byte decide which arm of the map answers, and the operand bytes stay unevaluated. -/
theorem bound8080_all_opcode_length (op b2 b3 : Byte) :
    (bound8080 op b2 b3).all (fun i => i.opcode == op && i.length == listedLength op) = true := by
  rw [← opcodeOf_of_fields op, bound8080_opcodeOf]
  generalize op.extractLsb' 6 2 = q, op.extractLsb' 3 3 = y, op.extractLsb' 0 3 = z
  revert q y z
  exact of_decide_eq_true rfl

section
variable {op b2 b3 : Byte} {i : Instr}

theorem opcode_length_of_bound8080 (h : bound8080 op b2 b3 = some i) : i.opcode = op ∧ i.length = listedLength op := by
  simpa [h] using bound8080_all_opcode_length op b2 b3

theorem inSource_of_bound8080 (hop : sourceBytes.contains op = true) (h : bound8080 op b2 b3 = some i) :
    i.inSource = true := by
  simp only [sourceBytes, List.contains_iff_mem, List.mem_cons, List.not_mem_nil, or_false] at hop
  obtain rfl | rfl | rfl | rfl | rfl := hop <;> obtain rfl := Option.some.inj h <;> rfl

end

/-! Its operand bytes are the first of the two bytes that follow the opcode byte (R91, R93), quadrant by quadrant. -/

theorem decodeMov_operands (dst src : R8) : (decodeMov dst src).operands = [] := by
  cases dst <;> cases src <;> rfl

theorem decodeQ2_operands (y z : BitVec 3) : (decodeQ2 y z).operands = [] := by
  unfold decodeQ2
  split <;> rfl

theorem rcond_operands (cnd : Cond) : (Instr.rcond cnd).operands = [] := by
  cases cnd <;> rfl

theorem jcond_operands (cnd : Cond) (w : Word) : (Instr.jcond cnd w).operands = [loByte w, hiByte w] := by
  cases cnd <;> rfl

theorem ccond_operands (cnd : Cond) (w : Word) : (Instr.ccond cnd w).operands = [loByte w, hiByte w] := by
  cases cnd <;> rfl

section
variable {op b2 b3 : Byte} {i : Instr} {y z : BitVec 3}

theorem decodeQ0_operands_prefix (h : decodeQ0 y z b2 b3 = some i) : i.operands <+: [b2, b3] := by
  unfold decodeQ0 at h
  split at h
  case h_1 =>
    obtain ⟨-, hnop⟩ := Option.ite_none_right_eq_some.1 h
    obtain rfl := Option.some.inj hnop
    exact List.nil_prefix
  all_goals obtain rfl := Option.some.inj h
  case h_5 | h_6 => exact List.nil_prefix
  all_goals split <;> simp [Instr.operands]

theorem decodeQ3_operands_prefix (h : decodeQ3 y z b2 b3 = some i) : i.operands <+: [b2, b3] := by
  unfold decodeQ3 at h
  split at h
  case h_2 | h_4 | h_6 => split at h <;> cases h <;> simp [Instr.operands]
  all_goals obtain rfl := Option.some.inj h
  case h_1 => simp [rcond_operands]
  case h_3 => simp [jcond_operands]
  case h_5 => simp [ccond_operands]
  case h_7 => split <;> simp [Instr.operands]
  case h_8 => exact List.nil_prefix

theorem operands_prefix_of_bound8080 (h : bound8080 op b2 b3 = some i) : i.operands <+: [b2, b3] := by
  unfold bound8080 at h
  split at h
  · exact decodeQ0_operands_prefix h
  · obtain rfl := Option.some.inj h
    simp [decodeMov_operands]
  · obtain rfl := Option.some.inj h
    simp [decodeQ2_operands]
  · exact decodeQ3_operands_prefix h

end

/-! The entry of an opcode byte, in either table (R107). -/

theorem sourceBytes_contains_of_lookup_ne {op b2 b3 : Byte} (h : lookup .tsrc op b2 b3 ≠ .unimplemented op) :
    sourceBytes.contains op = true := by
  by_contra hsrc
  exact h (if_neg hsrc)

/-- An entry is the Unimplemented one, whatever operand bytes follow, or the bound instruction of the full map. -/
theorem lookup_cases (t : Table) (op : Byte) :
    (∀ b2 b3, lookup t op b2 b3 = .unimplemented op) ∨ ∀ b2 b3, bound8080 op b2 b3 = some (lookup t op b2 b3) := by
  by_cases hwf : (Instr.unimplemented op).wf t = true
  · exact .inl fun b2 b3 => lookup_eq_unimplemented_iff.2 ⟨rfl, hwf⟩
  · refine .inr fun b2 b3 => ?_
    have hne : lookup t op b2 b3 ≠ .unimplemented op := fun h => hwf (lookup_eq_unimplemented_iff.1 h).2
    cases hb : bound8080 op b2 b3 with
    | none => exact absurd (by cases t <;> simp [lookup, hb]) hne
    | some i =>
      cases t with
      | t8080 => simp only [lookup, hb, Option.getD_some]
      | tsrc => simp only [lookup, sourceBytes_contains_of_lookup_ne hne, hb, if_true, Option.getD_some]

@[simp] theorem opcode_lookup (t : Table) (op b2 b3 : Byte) : (lookup t op b2 b3).opcode = op := by
  obtain h | h := lookup_cases t op
  · rw [h]; rfl
  · exact (opcode_length_of_bound8080 (h b2 b3)).1

/-- R92: the length is a function of the opcode byte alone. -/
theorem length_lookup (t : Table) (op b2 b3 : Byte) : (lookup t op b2 b3).length = opcodeLength t op := by
  unfold opcodeLength
  obtain h | h := lookup_cases t op
  · rw [h, h]
  · rw [(opcode_length_of_bound8080 (h b2 b3)).2, (opcode_length_of_bound8080 (h 0 0)).2]

theorem operands_lookup_prefix (t : Table) (op b2 b3 : Byte) : (lookup t op b2 b3).operands <+: [b2, b3] := by
  obtain h | h := lookup_cases t op
  · rw [h]; exact List.nil_prefix
  · exact operands_prefix_of_bound8080 (h b2 b3)

theorem wf_of_ne_unimplemented {t : Table} {i : Instr} (hop : ∀ op, i ≠ .unimplemented op)
    (hsrc : t = .tsrc → i.inSource = true) : i.wf t = true := by
  cases i with
  | unimplemented op => exact absurd rfl (hop op)
  | _ =>
    cases t with
    | t8080 => rfl
    | tsrc => exact hsrc rfl

/-- What a table yields is an instruction of the table (R107). -/
theorem lookup_wf (t : Table) (op b2 b3 : Byte) : (lookup t op b2 b3).wf t = true := by
  by_cases hop : ∃ op', lookup t op b2 b3 = .unimplemented op'
  · obtain ⟨op', h⟩ := hop
    obtain ⟨rfl, hwf⟩ := lookup_eq_unimplemented_iff.1 h
    rw [h, hwf]
  · refine wf_of_ne_unimplemented (fun op' h => hop ⟨op', h⟩) ?_
    rintro rfl
    have hsrc := sourceBytes_contains_of_lookup_ne fun h => hop ⟨op, h⟩
    obtain h | h := lookup_cases .tsrc op
    · exact absurd ⟨op, h b2 b3⟩ hop
    · exact inSource_of_bound8080 hsrc (h b2 b3)

/-! What `decode` answers: the entry of the opcode byte, with as many of the bytes that follow as its length leaves (R91, R92). -/

section
variable {t : Table} {op : Byte} {ops rest bytes : List Byte} {i : Instr}

theorem opcodeLength_le (t : Table) (op : Byte) : opcodeLength t op ≤ 3 := by
  rw [← length_lookup t op 0 0, ← operands_length]
  exact Nat.succ_le_succ (operands_lookup_prefix t op 0 0).length_le

/-- The operand bytes of an entry are those it was looked up with. -/
theorem operands_lookup (h : ops.length + 1 = opcodeLength t op) :
    (lookup t op (ops.getD 0 0) (ops.getD 1 0)).operands = ops := by
  have hpre := operands_lookup_prefix t op (ops.getD 0 0) (ops.getD 1 0)
  have hlen : (lookup t op (ops.getD 0 0) (ops.getD 1 0)).operands.length = ops.length := by
    have := operands_length (lookup t op (ops.getD 0 0) (ops.getD 1 0))
    rw [length_lookup] at this
    omega
  rw [List.prefix_iff_eq_take, hlen] at hpre
  have hle := opcodeLength_le t op
  match ops with
  | [] | [_] | [_, _] => exact hpre
  | _ :: _ :: _ :: _ => simp only [List.length_cons] at h; omega

theorem decode_append (h : ops.length + 1 = opcodeLength t op) (rest : List Byte) :
    decode t (op :: ops ++ rest) = .ok (lookup t op (ops.getD 0 0) (ops.getD 1 0), rest) := by
  have hle := opcodeLength_le t op
  match ops with
  | [] | [_] | [_, _] => simp [decode, ← h]
  | _ :: _ :: _ :: _ => simp only [List.length_cons] at h; omega

theorem decode_eq_ok (h : decode t bytes = .ok (i, rest)) :
    ∃ op ops, bytes = op :: ops ++ rest ∧ ops.length + 1 = opcodeLength t op ∧
      i = lookup t op (ops.getD 0 0) (ops.getD 1 0) := by
  unfold decode at h
  split at h
  · cases h
  · next op _ =>
    split at h
    · next hlen => cases h; exact ⟨op, [], rfl, hlen.symm, rfl⟩
    · next b2 _ hlen => cases h; exact ⟨op, [b2], rfl, hlen.symm, rfl⟩
    · next b2 b3 _ hlen => cases h; exact ⟨op, [b2, b3], rfl, hlen.symm, rfl⟩
    · cases h

end

/-- Settles O1: an instruction of the table is the entry of its own opcode byte and operand bytes. -/
theorem decodeOfEncode : Obligations.DecodeOfEncode := by
  intro t i rest hwf
  have hi := lookup_opcode hwf
  have hlen : i.operands.length + 1 = opcodeLength t i.opcode := by
    rw [operands_length, ← length_lookup t i.opcode (i.operands.getD 0 0) (i.operands.getD 1 0), hi]
  rw [encode, decode_append hlen, hi]

/-- Settles O2: an entry has the opcode byte and the operand bytes it was looked up with. -/
theorem encodeOfDecode : Obligations.EncodeOfDecode := by
  intro t bytes rest i h
  obtain ⟨op, ops, rfl, hlen, rfl⟩ := decode_eq_ok h
  exact ⟨by rw [encode, opcode_lookup, operands_lookup hlen], lookup_wf ..⟩

/-- Three bytes begin with the encoding of the entry they are looked up as, so they decode, to that entry (R91, R107). -/
theorem decode_three_bytes (t : Table) (op b2 b3 : Byte) (rest : List Byte) :
    ∃ rest', decode t (op :: b2 :: b3 :: rest) = .ok (lookup t op b2 b3, rest') := by
  obtain ⟨tail, htail⟩ := operands_lookup_prefix t op b2 b3
  have hbytes : encode (lookup t op b2 b3) ++ (tail ++ rest) = op :: b2 :: b3 :: rest := by
    rw [encode, opcode_lookup, List.cons_append, ← List.append_assoc, htail]
    rfl
  exact ⟨tail ++ rest, hbytes ▸ decodeOfEncode t _ _ (lookup_wf t op b2 b3)⟩

/-- Settles O3: which bytes are bound is what `lookup_eq_unimplemented_iff` says of each table. -/
theorem unimplementedExactlyOnUnboundBytes : Obligations.UnimplementedExactlyOnUnboundBytes := by
  intro op b2 b3
  refine ⟨?_, ?_, fun hop => ?_, fun t rest => ?_⟩
  · rw [lookup_eq_unimplemented_iff]
    simp [Instr.wf, unimplementedBytes]
  · rw [lookup_eq_unimplemented_iff]
    simp [Instr.wf, sourceBytes]
  · exact if_pos (List.contains_iff_mem.2 hop)
  · obtain ⟨rest', h⟩ := decode_three_bytes t op b2 b3 rest
    exact ⟨_, rest', h⟩

/-- A descriptor belongs to a bound instruction, and its length is the instruction's (R90). -/
theorem length_of_descriptor {op : Byte} {d : Descriptor} (h : descriptor .t8080 op = some d) :
    d.length = listedLength op := by
  unfold descriptor at h
  split at h
  · cases h
  · next hne =>
    cases h
    obtain hu | hb := lookup_cases .t8080 op
    · exact absurd (hu 0 0) (hne op)
    · exact (opcode_length_of_bound8080 (hb 0 0)).2

/-- Settles O4: `listedLength` is R92's rule, and the operand bytes are one fewer than the length. -/
theorem lengthsOfBoundOpcodes : Obligations.LengthsOfBoundOpcodes :=
  ⟨fun _ _ => length_of_descriptor, operands_length⟩

/-- Settles O5, by evaluation of each word. -/
theorem decodeOfWrittenWords : Obligations.DecodeOfWrittenWords :=
  ⟨rfl, rfl, rfl, rfl, rfl, rfl, rfl, rfl, rfl, rfl, rfl, rfl, rfl, rfl, rfl⟩

end Sys2Proof
end

section
/-! The execution loop (40_execution_loop.md): what the step answers for each outcome of its tests (R120, R121, R122), what the
fetch answers in range, past the end of memory and on a decoded instruction (R123, R124), which steps leave Halted (R129), and
`run_until_halt` as a sequence of steps (R128). -/

namespace Sys2Proof.Machine

/-! The step, test by test, in the order of R250; its last answer is `step_of_runs`. -/

section
variable {s : State}

theorem step_of_not_running (h : s.status ≠ .running) : step s = .refused (.stepRefused s.status) := by
  cases hs : s.status with
  | running => exact absurd hs h
  | halted | faulted => simp only [step, hs]

theorem step_of_interruptDue {n : VecNum} (hs : s.status = .running) (hdue : s.interruptDue = some n) :
    step s = .next (s.interruptEntry n) := by
  simp only [step, hs, hdue]

theorem step_of_fetchInstr_error {r : FaultRecord} (hs : s.status = .running) (hdue : s.interruptDue = none)
    (hr : s.fetchInstr = .error r) : step s = .next (s.takeFault r) := by
  simp only [step, hs, hdue, hr]

theorem interruptDue_of_disabled (h : s.inte = false) : s.interruptDue = none := by
  simp [State.interruptDue, h]

/-! Every step from Running has a next state. -/

theorem exists_finish_eq_next (i : Instr) (s : State) (e : Except AccessFault Effect) : ∃ t, finish i s e = .next t := by
  match e with
  | .error f => exact ⟨_, rfl⟩
  | .ok (.advance u) => exact ⟨_, rfl⟩
  | .ok (.redirect u target) => exact ⟨_, rfl⟩

theorem exists_exec_eq_next (i : Instr) (s : State) : ∃ t, exec i s = .next t := by
  by_cases hop : ∃ op, i = .unimplemented op
  · obtain ⟨op, rfl⟩ := hop
    exact ⟨_, rfl⟩
  · obtain ⟨e, he, -⟩ := exec_eq_finish i s fun op hi => hop ⟨op, hi⟩
    exact he ▸ exists_finish_eq_next i s e

theorem exists_step_eq_next (hs : s.status = .running) : ∃ t, step s = .next t := by
  cases hdue : s.interruptDue with
  | some n => exact ⟨_, step_of_interruptDue hs hdue⟩
  | none =>
    cases hi : s.fetchInstr with
    | error r => exact ⟨_, step_of_fetchInstr_error hs hdue hi⟩
    | ok i => exact step_of_runs ⟨hs, hdue, hi⟩ ▸ exists_exec_eq_next i s

end

/-- Settles O7: the status test comes first, and whatever a Running machine then meets has a next state; the model's type of faults
is empty. -/
theorem stepByStatus : Obligations.StepByStatus := by
  refine fun s => ⟨fun h => step_of_not_running ?_, exists_step_eq_next, nofun⟩
  obtain h | h := h <;> simp [h]

/-! Which steps leave Halted (R129, R131). -/

section
variable {s t : State}

/-- The interrupt entry leaves the machine Running, or Faulted where its push is refused (R249). -/
theorem interruptEntry_status_ne_halted (hs : s.status = .running) (n : VecNum) : (s.interruptEntry n).status ≠ .halted := by
  unfold State.interruptEntry
  split
  · simp
  · next t ht =>
    obtain ⟨-, rfl⟩ := push16_eq_ok.1 ht
    simp [hs]

/-- HLT halts, for it makes no access that could be refused; any other instruction that completes keeps the status. -/
theorem exec_status_halted_iff {i : Instr} (hs : s.status = .running) (h : exec i s = .next t) :
    t.status = .halted ↔ i = .hlt := by
  by_cases hi : i = .hlt
  · subst hi
    obtain rfl := Host.Outcome.next.inj h
    simp
  · obtain ⟨r, rfl⟩ | hf := exec_frame h
    · simp [hi]
    · simp [hf.status, hi, hs]

end

/-- Settles O8: of the three answers of a step only the fetched instruction's own can be Halted, and of the instructions only HLT's. -/
theorem haltedExactlyByHlt : Obligations.HaltedExactlyByHlt := by
  intro s t h
  obtain ⟨hs, ⟨n, hdue, rfl⟩ | ⟨-, r, hr, rfl⟩ | ⟨hdue, i, hi, hexec⟩⟩ := step_next h
  · simp [interruptEntry_status_ne_halted hs, State.runs, hdue]
  · simp [State.runs, hr]
  · simp [exec_status_halted_iff hs hexec, State.runs, hs, hdue, hi]

/-! A pending vector while the enable is false (R122, R248). -/

/-- Settles O10: with the enable false no interrupt is due, and neither the fetch nor any instruction reads the pending slot. -/
theorem pendingVectorWaitsWhileDisabled : Obligations.PendingVectorWaitsWhileDisabled := by
  intro s v hinte
  change step (s.withUnread 0 fun _ => v) = mapNext (State.withUnread 0 fun _ => v) (step s)
  by_cases hs : s.status = .running
  · have hdue := interruptDue_of_disabled hinte
    have hs' : (s.withUnread 0 fun _ => v).status = .running := hs
    have hdue' := interruptDue_of_disabled (s := s.withUnread 0 fun _ => v) hinte
    have hfetch := fetchInstr_withUnread 0 (fun _ => v) s
    cases hi : s.fetchInstr with
    | error r =>
      rw [step_of_fetchInstr_error hs hdue hi, step_of_fetchInstr_error hs' hdue' (hfetch.trans hi)]
      rfl
    | ok i => rw [step_of_runs ⟨hs, hdue, hi⟩, step_of_runs ⟨hs', hdue', hfetch.trans hi⟩, exec_withUnread]
  · rw [step_of_not_running hs, step_of_not_running (s := s.withUnread 0 fun _ => v) hs]
    rfl

/-! A fetch out of range (R123, R124, R244). -/

section
variable {s : State}

theorem fetchInstr_of_not_inRange (h : ¬ s.inRange s.pc.toNat) :
    s.fetchInstr = .error (.addressOutOfRange s.pc none s.pc.toNat .fetch) := by
  simp only [State.fetchInstr, memRead1_of_not_inRange h]

/-- Operand bytes that begin within memory or at its end and do not all fit are refused at `MEM_SIZE` (R124). -/
theorem readOperands_of_not_fits {x n : Nat} (hx : x ≤ s.cfg.memSize) (hn : s.cfg.memSize < x + n) :
    s.readOperands x n = .error ⟨s.cfg.memSize, .operand⟩ := by
  cases h : s.readOperands x n with
  | error f => rw [readOperands_eq_error hx h]
  | ok vs =>
    obtain ⟨hlen, hvs⟩ := readOperands_eq_ok.1 h
    have := (hvs (s.cfg.memSize - x) (by omega)).1
    omega

/-- An instruction that begins in memory and does not fit is refused at `MEM_SIZE`, with its opcode byte (R244). -/
theorem fetchInstr_of_not_fits (hr : s.inRange s.pc.toNat)
    (hlen : s.cfg.memSize < s.pc.toNat + opcodeLength s.cfg.table (s.mem.read s.pc.toNat)) :
    s.fetchInstr = .error (.addressOutOfRange s.pc (some (s.mem.read s.pc.toNat)) s.cfg.memSize .operand) := by
  simp only [State.fetchInstr, memRead1_of_inRange hr]
  rw [readOperands_of_not_fits hr (by omega)]

end

/-- Settles O11: the opcode fetch is refused at `pc`, an operand fetch at the first address past the memory. -/
theorem fetchFaults : Obligations.FetchFaults := by
  intro s hs hdue
  refine ⟨fun hr => step_of_fetchInstr_error hs hdue (fetchInstr_of_not_inRange hr), fun h0 hlen h1 => ?_, fun h1 hlen h2 => ?_⟩
  · have hend : s.cfg.memSize = s.pc.toNat + 1 := by omega
    exact hend ▸ step_of_fetchInstr_error hs hdue (fetchInstr_of_not_fits h0 (by omega))
  · have hend : s.cfg.memSize = s.pc.toNat + 2 := by omega
    exact hend ▸ step_of_fetchInstr_error hs hdue (fetchInstr_of_not_fits (by omega) (by omega))

/-! `run_until_halt` (R128). -/

section
variable {s t : State}

theorem hostStep_of_next (h : step s = .next t) : (hostStep s).2 = t := by
  simp only [hostStep, h]

theorem runUntilHalt_succ (hs : s.status = .running) (n : Nat) : runUntilHalt (n + 1) s = runUntilHalt n (hostStep s).2 :=
  if_pos hs

theorem runUntilHalt_of_not_running (h : s.status ≠ .running) (n : Nat) : runUntilHalt n s = s := by
  cases n with
  | zero => rfl
  | succ n => exact if_neg h

theorem runUntilHalt_add (n m : Nat) (s : State) : runUntilHalt (n + m) s = runUntilHalt m (runUntilHalt n s) := by
  induction n generalizing s with
  | zero => rw [Nat.zero_add]; rfl
  | succ n ih =>
    by_cases hs : s.status = .running
    · rw [Nat.succ_add, runUntilHalt_succ hs, runUntilHalt_succ hs, ih]
    · simp only [runUntilHalt_of_not_running hs]

/-- A call of `step()` takes a step or, refused, changes nothing. -/
theorem Reaches.hostStep {r : State} (h : Reaches r s) : Reaches r (hostStep s).2 := by
  unfold Machine.hostStep
  split
  · next t ht => exact .step h ht
  · exact h
  · exact h

theorem Reaches.runUntilHalt {r : State} (h : Reaches r s) (n : Nat) : Reaches r (runUntilHalt n s) := by
  induction n generalizing s with
  | zero => exact h
  | succ n ih =>
    unfold Machine.runUntilHalt
    split
    · exact ih h.hostStep
    · exact h

end

/-- Settles O59, by induction on the step budget. -/
theorem runUntilHaltIsSteps : Obligations.RunUntilHaltIsSteps := by
  refine fun n m s => ⟨fun t hs ht => ?_, rfl, runUntilHalt_add n m s, fun h => runUntilHalt_of_not_running h n,
    (Reaches.refl s).runUntilHalt n⟩
  rw [runUntilHalt_succ hs, hostStep_of_next ht]

/-! The fetch of a decoded instruction (R120, R123, R124). -/

section
variable {s : State} {x : Nat}

theorem holdsBytes_cons {v : Byte} {vs : List Byte} (h : s.holdsBytes x (v :: vs)) :
    s.inRange x ∧ s.mem.read x = v ∧ s.holdsBytes (x + 1) vs := by
  obtain ⟨hr, hv⟩ := h 0 (Nat.zero_lt_succ _)
  refine ⟨hr, hv, fun k hk => ?_⟩
  have hk' := h (k + 1) (Nat.succ_lt_succ hk)
  rwa [← Nat.add_assoc, Nat.add_right_comm] at hk'

theorem fetchInstr_of_decode {bytes : List Byte} {i : Instr} (hbytes : s.holdsBytes s.pc.toNat bytes)
    (hdec : decode s.cfg.table bytes = .ok (i, [])) : s.fetchInstr = .ok i := by
  obtain ⟨op, ops, rfl, hlen, rfl⟩ := decode_eq_ok hdec
  rw [List.append_nil] at hbytes
  obtain ⟨hr, rfl, hops⟩ := holdsBytes_cons hbytes
  exact fetchInstr_eq_ok.2 ⟨hr, ops, readOperands_eq_ok.2 ⟨by omega, hops⟩, rfl⟩

end

/-- Settles O6: the fetch reads the bytes that decode to the instruction. -/
theorem stepRunsDecodedInstruction : Obligations.StepRunsDecodedInstruction :=
  fun _ _ _ hs hdue hbytes hdec => step_of_runs ⟨hs, hdue, fetchInstr_of_decode hbytes hdec⟩

/-! The four control instructions (R130, R131, R230, R231). -/

/-- An instruction that advances and has not written `pc` or the cycle total itself (R125, R126). -/
theorem finish_advance {i : Instr} {s u : State} (hpc : u.pc = s.pc) (hcycles : u.cycles = s.cycles) :
    finish i s (.ok (.advance u)) = .next (u.after i.length i.cost) := by
  simp only [finish, State.after, hpc, hcycles]

/-- Settles O50: each of the four is the central advance of its one update. -/
theorem nopHltEiDiResult : Obligations.NopHltEiDiResult :=
  fun _ => ⟨⟨rfl, finish_advance rfl rfl⟩, ⟨rfl, finish_advance rfl rfl⟩, ⟨rfl, finish_advance rfl rfl⟩,
    ⟨rfl, finish_advance rfl rfl⟩⟩

end Sys2Proof.Machine
end

section
/-! The data transfer instructions (41_data_transfer.md), with SPHL and PCHL: the rules that load a byte, store a byte and store a
word, each completed in range once for all the instructions that have it, and pairs written from their two bytes. -/

namespace Sys2Proof.Machine

section
variable {s : State} {i : Instr} {x : Nat}

/-- A rule whose first access answers goes on with the answer. -/
theorem finish_bind_of_ok {α : Type} {e : Except AccessFault α} {k : α → Except AccessFault Effect} {a : α} (h : e = .ok a) :
    finish i s (e >>= k) = finish i s (k a) := by
  rw [h]; rfl

/-- A byte load in range, into whatever register `g` writes (R62). -/
theorem finish_load_of_inRange {acc : Access} {g : Byte → State} (hpc : ∀ v, (g v).pc = s.pc)
    (hcycles : ∀ v, (g v).cycles = s.cycles) (h : s.inRange x) :
    finish i s (s.memRead1 acc x >>= fun v => .ok (.advance (g v))) =
      .next ((g (s.mem.read x)).after i.length i.cost) :=
  (finish_bind_of_ok (memRead1_of_inRange h)).trans (finish_advance (hpc _) (hcycles _))

/-- A byte store in range (R63). -/
theorem finish_store_of_inRange {acc : Access} (v : Byte) (h : s.inRange x) :
    ∃ t, finish i s (s.memWrite1 acc x v >>= fun t => .ok (.advance t)) = .next t ∧
      t = { s.after i.length i.cost with mem := t.mem } ∧ s.storedByte t x v :=
  ⟨_, (finish_bind_of_ok (memWrite1_of_inRange h)).trans (finish_advance rfl rfl), rfl, storedByte_write rfl⟩

/-- A word store, both bytes in range (R65, R67). -/
theorem finish_storeWord_of_inRange {acc : Access} (hi lo : Byte) (h : s.inRange x ∧ s.inRange (x + 1)) :
    ∃ t, finish i s (s.memWrite2 acc x (concat hi lo) >>= fun t => .ok (.advance t)) = .next t ∧
      t = { s.after i.length i.cost with mem := t.mem } ∧ s.storedWord t x hi lo := by
  refine ⟨_, (finish_bind_of_ok (memWrite2_of_inRange h)).trans (finish_advance rfl rfl), rfl, storedWord_write ?_⟩
  simp only [State.after, hiByte_concat, loByte_concat]

end

/-! Pairs written from their two bytes (R22). -/

theorem setPair_concat (s : State) (p : Pair) (hi lo : Byte) :
    s.setPair p (concat hi lo) = (s.setReg (pairHi p) hi).setReg (pairLo p) lo := by
  rw [State.setPair, hiByte_concat, loByte_concat]

/-- R152: the exchange, each pair read before it is written. -/
theorem exchange_hl_de (s : State) :
    (s.setPair .hl (s.getPair .de)).setPair .de s.hl = { s with d := s.h, e := s.l, h := s.d, l := s.e } := by
  simp only [State.hl, State.getPair, setPair_concat]
  rfl

/-- R145: the operand bytes of LXI follow its opcode byte, low byte first. -/
theorem encode_lxi (x : PairSP) (b2 b3 : Byte) :
    encode (.lxi x (concat b3 b2)) = [opcodeOf 0 (ppField x.code 0) 1, b2, b3] := by
  simp [encode, Instr.opcode, Instr.operands]

/-- R145: LXI writes its operand to the pair or to SP. -/
theorem exec_lxi (x : PairSP) (w : Word) (s : State) : exec (.lxi x w) s = .next ((s.setRP x w).after 3 10) :=
  finish_advance (setRP_pc s w x) (setRP_cycles s w x)

theorem exec_lxi_pair (p : Pair) (b2 b3 : Byte) (s : State) :
    exec (.lxi (.pair p) (concat b3 b2)) s = .next (((s.setReg (pairHi p) b3).setReg (pairLo p) b2).after 3 10) := by
  rw [exec_lxi, State.setRP, setPair_concat]

/-- R148: H and L from the two bytes at the address. -/
theorem exec_lhld_of_inRange {s : State} {w : Word} (h : s.inRange w.toNat ∧ s.inRange (w.toNat + 1)) :
    exec (.lhld w) s = .next ({ s with l := s.mem.read w.toNat, h := s.mem.read (w.toNat + 1) }.after 3 16) := by
  refine (finish_bind_of_ok (memRead2_of_inRange h)).trans ((finish_advance (setPair_pc ..) (setPair_cycles ..)).trans ?_)
  rw [setPair_concat]
  rfl

/-- Settles O23: a register move, a load and a store at HL, each in range and refused. -/
theorem movResult : Obligations.MovResult := by
  refine fun s dst src => ⟨⟨rfl, finish_advance (setReg_pc ..) (setReg_cycles ..)⟩, ⟨rfl, fun h => ?_, fun h => ?_⟩,
    ⟨rfl, fun h => ?_, fun h => ?_⟩⟩
  · exact finish_load_of_inRange (setReg_pc s dst) (setReg_cycles s dst) h
  · exact finish_bind_of_error (memRead1_of_not_inRange h)
  · exact finish_store_of_inRange (s.getReg src) h
  · exact finish_bind_of_error (memWrite1_of_not_inRange h)

/-- Settles O24: the immediate byte to a register, or stored at HL. -/
theorem mviResult : Obligations.MviResult := by
  refine fun s dst d8 => ⟨⟨rfl, finish_advance (setReg_pc ..) (setReg_cycles ..)⟩, ⟨rfl, fun h => ?_, fun h => ?_⟩⟩
  · exact finish_store_of_inRange d8 h
  · exact finish_bind_of_error (memWrite1_of_not_inRange h)

/-- Settles O25: a pair is written from the two operand bytes, SP from the word they make. -/
theorem lxiResult : Obligations.LxiResult :=
  fun s b2 b3 => ⟨⟨encode_lxi (.pair .bc) b2 b3, exec_lxi_pair .bc b2 b3 s⟩,
    ⟨encode_lxi (.pair .de) b2 b3, exec_lxi_pair .de b2 b3 s⟩,
    ⟨encode_lxi (.pair .hl) b2 b3, exec_lxi_pair .hl b2 b3 s⟩,
    ⟨encode_lxi .sp b2 b3, exec_lxi .sp (b3 ++ b2) s⟩⟩

/-- Settles O26: a load and a store of A at the address, each in range and refused. -/
theorem ldaStaResult : Obligations.LdaStaResult := by
  refine fun s w => ⟨⟨rfl, fun h => ?_, fun h => ?_⟩, ⟨rfl, fun h => ?_, fun h => ?_⟩⟩
  · exact finish_load_of_inRange (setReg_pc s .a) (setReg_cycles s .a) h
  · exact finish_bind_of_error (memRead1_of_not_inRange h)
  · exact finish_store_of_inRange s.a h
  · exact finish_bind_of_error (memWrite1_of_not_inRange h)

/-- Settles O27: the word access answers only with both bytes in range, and a refused one names the first that is not. -/
theorem lhldShldResult : Obligations.LhldShldResult := by
  refine fun s w => ⟨⟨rfl, exec_lhld_of_inRange, fun h => ?_⟩, ⟨rfl, fun h => ?_, fun h => ?_⟩⟩
  · exact finish_bind_of_error (memRead2_of_not_inRange h)
  · exact finish_storeWord_of_inRange s.h s.l h
  · exact finish_bind_of_error (memWrite2_of_not_inRange h)

/-- Settles O28: for each pair, the load and the store of A at the address its registers hold. -/
theorem ldaxStaxResult : Obligations.LdaxStaxResult := by
  intro s p
  cases p with
  | bc | de =>
    refine ⟨⟨rfl, fun h => ?_, fun h => ?_⟩, ⟨rfl, fun h => ?_, fun h => ?_⟩⟩
    · exact finish_load_of_inRange (setReg_pc s .a) (setReg_cycles s .a) h
    · exact finish_bind_of_error (memRead1_of_not_inRange h)
    · exact finish_store_of_inRange s.a h
    · exact finish_bind_of_error (memWrite1_of_not_inRange h)

/-- Settles O29: the exchange and the copy to SP advance, PCHL transfers. -/
theorem xchgSphlPchlResult : Obligations.XchgSphlPchlResult := by
  refine fun s => ⟨⟨rfl, ?_⟩, ⟨rfl, finish_advance rfl rfl⟩, ⟨rfl, rfl⟩⟩
  rw [← exchange_hl_de]
  exact finish_advance rfl rfl

end Sys2Proof.Machine
end

section
/-! The arithmetic instructions (42_arithmetic.md): a result to A with all five flags, an operand read and written back, a 16-bit
operand, and the two corrections of DAA as numbers. -/

namespace Sys2Proof.Machine

section
variable {s : State} {i : Instr}

/-! A result to A and all five flags, the result a number mod 256 (R160, R161, R174). -/

theorem finish_setAcc {o : AluOut} {n : Nat} {cy ac : Bool} (ho : o = ⟨BitVec.ofNat 8 (n % 256), cy, ac⟩) :
    finish i s (.ok (.advance (s.setAcc o))) = .next (s.accResult (n % 256) cy ac i.length i.cost) := by
  refine (finish_advance rfl rfl).trans ?_
  rw [ho, State.setAcc, ofAlu_eq_refFlags, BitVec.toNat_ofNat, Nat.mod_eq_of_lt (Nat.mod_lt n (by decide))]
  rfl

/-- The same from an 8-bit operand that can be read (R94). -/
theorem finish_r8_setAcc {src : R8} {op : Byte → AluOut} {n : Nat} {cy ac : Bool} (h : s.r8Ok src)
    (ho : op (s.r8Value src) = ⟨BitVec.ofNat 8 (n % 256), cy, ac⟩) :
    finish i s (s.readR8 src >>= fun v => .ok (.advance (s.setAcc (op v)))) =
      .next (s.accResult (n % 256) cy ac i.length i.cost) :=
  (finish_bind_of_ok (readR8_of_r8Ok h)).trans (finish_setAcc ho)

/-! An 8-bit operand read and written back with new flags (R170, R171). -/

theorem finish_modify_reg (r : Reg) (f : Byte → Byte) (fl : Byte → Flags) :
    finish i s (s.readR8 (.reg r) >>= fun v => s.writeR8 (.reg r) (f v) >>= fun t => .ok (.advance { t with fl := fl v })) =
      .next ({ s.setReg r (f (s.getReg r)) with fl := fl (s.getReg r) }.after i.length i.cost) :=
  finish_advance (setReg_pc ..) (setReg_cycles ..)

/-- On M the write follows the read at the same address, so it is in range too. -/
theorem finish_modify_m (f : Byte → Byte) (fl : Byte → Flags) (h : s.inRange s.hl.toNat) :
    ∃ t, finish i s (s.readR8 .m >>= fun v => s.writeR8 .m (f v) >>= fun t => .ok (.advance { t with fl := fl v })) = .next t ∧
      t = { s.after i.length i.cost with fl := fl (s.mem.read s.hl.toNat), mem := t.mem } ∧
      s.storedByte t s.hl.toNat (f (s.mem.read s.hl.toNat)) :=
  ⟨_, (finish_bind_of_ok (memRead1_of_inRange h)).trans
      ((finish_bind_of_ok (memWrite1_of_inRange h)).trans (finish_advance rfl rfl)), rfl, storedByte_write rfl⟩

/-! A 16-bit operand (R95). -/

theorem finish_setRP (p : PairSP) (w : Word) :
    finish i s (.ok (.advance (s.setRP p w))) = .next ((s.setRP p w).after i.length i.cost) :=
  finish_advance (setRP_pc s w p) (setRP_cycles s w p)

theorem getRP_after (s : State) (p : PairSP) (len cost : Nat) : (s.after len cost).getRP p = s.getRP p := by
  cases p with
  | pair p => cases p <;> rfl
  | sp => rfl

end

/-! The ALU against natural numbers. -/

/-- R160. -/
theorem add8_eq (x y : Byte) (c : Bool) :
    add8 x y c =
      { res := BitVec.ofNat 8 ((x.toNat + y.toNat + c.toNat) % 256)
        cy := decide (255 < x.toNat + y.toNat + c.toNat)
        ac := decide (15 < x.toNat % 16 + y.toNat % 16 + c.toNat) } := by
  rw [show (256 : Nat) = 2 ^ 8 from rfl, ← BitVec.toNat_ofNat, BitVec.ofNat_toNat, BitVec.setWidth_eq]
  rfl

theorem inc8_eq_ofNat (v : Byte) : inc8 v = BitVec.ofNat 8 (v.toNat + 1) := by
  apply BitVec.eq_of_toNat_eq
  simp [inc8]

theorem dec8_eq_ofNat (v : Byte) : dec8 v = BitVec.ofNat 8 (v.toNat + 255) := by
  apply BitVec.eq_of_toNat_eq
  simp [dec8, BitVec.toNat_sub, Nat.add_comm]

theorem afterInr_eq_refFlags (fl : Flags) (v : Byte) :
    fl.afterInr v = refFlags ((v.toNat + 1) % 256) fl.cy (v.toNat % 16 = 15) :=
  (szp_eq_refFlags fl (inc8 v) _).trans (by rw [inc8_eq_ofNat, BitVec.toNat_ofNat]; rfl)

theorem afterDcr_eq_refFlags (fl : Flags) (v : Byte) :
    fl.afterDcr v = refFlags ((v.toNat + 255) % 256) fl.cy (v.toNat % 16 ≠ 0) :=
  (szp_eq_refFlags fl (dec8 v) _).trans (by rw [dec8_eq_ofNat, BitVec.toNat_ofNat, bne, beq_eq_decide,
    ← decide_not])

/-- Settles O30: the adder's equation, at a readable operand and at an immediate byte. -/
theorem addResult : Obligations.AddResult :=
  fun s _ _ => ⟨rfl, rfl, rfl, rfl,
    fun h => ⟨finish_r8_setAcc (op := (add8 s.a · false)) h (add8_eq ..),
      finish_r8_setAcc (op := (add8 s.a · s.fl.cy)) h (add8_eq ..)⟩,
    finish_setAcc (add8_eq ..), finish_setAcc (add8_eq ..)⟩

/-- Settles O31: the subtractor's equation, at a readable operand and at an immediate byte. -/
theorem subtractResult : Obligations.SubtractResult :=
  fun s _ _ => ⟨rfl, rfl, rfl, rfl,
    fun h => ⟨finish_r8_setAcc (op := (sub8 s.a · false)) h (sub8_eq ..),
      finish_r8_setAcc (op := (sub8 s.a · s.fl.cy)) h (sub8_eq ..)⟩,
    finish_setAcc (sub8_eq ..), finish_setAcc (sub8_eq ..)⟩

/-- Settles O35: the operand read and written back, in a register and in M. -/
theorem incrementDecrementResult : Obligations.IncrementDecrementResult := by
  intro s r
  simp only [← inc8_eq_ofNat, ← dec8_eq_ofNat, ← afterInr_eq_refFlags, ← afterDcr_eq_refFlags]
  refine ⟨rfl, rfl, rfl, rfl, finish_modify_reg r inc8 s.fl.afterInr, finish_modify_reg r dec8 s.fl.afterDcr,
    fun h => ⟨finish_modify_m inc8 s.fl.afterInr h, finish_modify_m dec8 s.fl.afterDcr h⟩, fun h => ⟨?_, ?_⟩⟩
  · exact finish_bind_of_error (readR8_m_of_not_inRange h)
  · exact finish_bind_of_error (readR8_m_of_not_inRange h)

/-- The opcode byte of a row with `pp` in bits 5..4 (R95). -/
theorem opcodeOf_ppField (pp : BitVec 2) (b : BitVec 1) (z : BitVec 3) :
    opcodeOf 0 (ppField pp b) z = 0b00#2 ++ pp ++ (b ++ z) := by
  revert pp b z; decide

/-- Settles O36: the operand written is read back, one more or one less mod 65536. -/
theorem inxDcxResult : Obligations.InxDcxResult := by
  refine fun s p => ⟨(s.setRP p (s.getRP p + 1)).after 1 5, (s.setRP p (s.getRP p - 1)).after 1 5,
    congrArg ([·]) (opcodeOf_ppField p.code 0 3), congrArg ([·]) (opcodeOf_ppField p.code 1 3),
    finish_setRP p _, finish_setRP p _, ?_⟩
  simp only [getRP_after, getRP_setRP, and_true]
  exact ⟨BitVec.toNat_add .., by rw [BitVec.toNat_sub, Nat.add_comm]; rfl⟩

/-! The two bytes of a 16-bit sum, as R175 writes them to H and L. -/

theorem hiByte_ofNat (n : Nat) : hiByte (BitVec.ofNat 16 n) = BitVec.ofNat 8 (n / 256) := by
  apply BitVec.eq_of_toNat_eq
  simp only [hiByte_toNat, BitVec.toNat_ofNat]
  omega

theorem loByte_ofNat (n : Nat) : loByte (BitVec.ofNat 16 n) = BitVec.ofNat 8 n := by
  apply BitVec.eq_of_toNat_eq
  simp only [loByte_toNat, BitVec.toNat_ofNat]
  omega

/-- R175: DAD writes the adder's 16 bits to HL and its carry to Carry. -/
theorem exec_dad (p : PairSP) (s : State) :
    exec (.dad p) s =
      .next (((s.setPair .hl (add16 s.hl (s.getRP p)).1).setCarry (add16 s.hl (s.getRP p)).2).after 1 10) :=
  finish_advance (setPair_pc ..) (setPair_cycles ..)

/-- Settles O37: the 16-bit sum to H and L, its bit 16 to Carry. -/
theorem dadResult : Obligations.DadResult := by
  refine fun s p => ⟨congrArg ([·]) (opcodeOf_ppField p.code 1 1), ?_⟩
  simp only [exec_dad, add16, State.setPair, hiByte_ofNat, loByte_ofNat]
  rfl

/-! DAA on numbers (R174). -/

/-- Whether the low digit is corrected. -/
def daaLow (a : Nat) (ac : Bool) : Bool := ac || decide (9 < a % 16)

/-- Whether the high digit is corrected. -/
def daaHigh (a : Nat) (cy : Bool) : Bool := cy || decide (9 < a / 16) || (decide (9 ≤ a / 16) && decide (9 < a % 16))

/-- What is added: 6 for the low digit, 96 for the high one. -/
def daaAddend (low high : Bool) : Nat := (if low then 6 else 0) + (if high then 96 else 0)

theorem daaCorrection_eq (x : Byte) (cy ac : Bool) :
    daaCorrection x cy ac = (BitVec.ofNat 8 (daaAddend (daaLow x.toNat ac) (daaHigh x.toNat cy)), daaHigh x.toNat cy) := by
  have byte_sum : ∀ low high : Bool,
      ((if low then 0x06 else 0) + (if high then 0x60 else 0) : Byte) = BitVec.ofNat 8 (daaAddend low high) := by decide
  exact Prod.ext (byte_sum _ _) rfl

theorem daaAddend_lt (low high : Bool) : daaAddend low high < 256 := by
  revert low high; decide

theorem or_daaHigh (a : Nat) (cy : Bool) : (cy || daaHigh a cy) = daaHigh a cy := by
  simp only [daaHigh, ← Bool.or_assoc, Bool.or_self]

theorem daa8_eq (x : Byte) (cy ac : Bool) :
    daa8 x cy ac =
      { res := BitVec.ofNat 8 ((x.toNat + daaAddend (daaLow x.toNat ac) (daaHigh x.toNat cy)) % 256)
        cy := daaHigh x.toNat cy
        ac := decide (15 < x.toNat % 16 + daaAddend (daaLow x.toNat ac) (daaHigh x.toNat cy) % 16) } := by
  simp only [daa8, daaCorrection_eq, add8_eq, or_daaHigh, BitVec.toNat_ofNat, Bool.toNat_false, Nat.add_zero,
    Nat.mod_eq_of_lt (daaAddend_lt _ _)]

/-- Settles O38: the adder's result with the correction byte. -/
theorem daaResult : Obligations.DaaResult :=
  fun _ => ⟨rfl, finish_setAcc (daa8_eq ..)⟩

/-! ADD then DAA on packed decimal bytes (R162, R174): which corrections apply, and what they leave. -/

/-- The packed binary-coded-decimal byte of a number below 100. -/
def bcd (n : Nat) : Nat := n / 10 * 16 + n % 10

/-- The low digit is corrected exactly when the decimal digits carry, whether the sum of the nibbles exceeds 9 or 15. -/
theorem daaLow_bcd_add (x y : Nat) :
    daaLow ((bcd x + bcd y) % 256) (decide (15 < bcd x % 16 + bcd y % 16)) = decide (9 < x % 10 + y % 10) := by
  rw [Bool.eq_iff_iff]
  simp only [daaLow, Bool.or_eq_true, decide_eq_true_eq]
  simp only [bcd]
  omega

section
variable {x y : Nat} (hx : x < 100) (hy : y < 100)
include hx hy

/-- The high digit is corrected exactly when the decimal sum exceeds 99: the bytes carry, or their sum without a carry has a
high digit above 9, or of 9 with a low digit that will carry into it. -/
theorem daaHigh_bcd_add :
    daaHigh ((bcd x + bcd y) % 256) (decide (255 < bcd x + bcd y)) = decide (99 < x + y) := by
  rw [Bool.eq_iff_iff]
  simp only [daaHigh, Bool.or_eq_true, Bool.and_eq_true, decide_eq_true_eq]
  by_cases carry : 255 < bcd x + bcd y
  · exact iff_of_true (.inl (.inl carry)) (by simp only [bcd] at carry; omega)
  · rw [Nat.mod_eq_of_lt (by omega)]
    simp only [bcd] at carry ⊢
    by_cases low : 9 < x % 10 + y % 10 <;> omega

/-- With those corrections the binary sum of the bytes is the packed decimal sum. -/
theorem bcd_add_corrected :
    ((bcd x + bcd y) % 256 + daaAddend (decide (9 < x % 10 + y % 10)) (decide (99 < x + y))) % 256 =
      bcd ((x + y) % 100) := by
  simp only [daaAddend, bcd, decide_eq_true_eq]
  split <;> split <;> omega

/-- What DAA makes of the adder's result for two packed decimal bytes. -/
theorem daa8_add8_bcd {a v : Byte} (ha : a.toNat = bcd x) (hv : v.toNat = bcd y) :
    let sum := add8 a v false
    let adjusted := daa8 sum.res sum.cy sum.ac
    adjusted.res.toNat = bcd ((x + y) % 100) ∧ (adjusted.cy = true ↔ 99 < x + y) := by
  have hmod (n : Nat) : n % 256 % 2 ^ 8 = n % 256 := Nat.mod_mod n 256
  simp only [daa8_eq, add8_eq, ha, hv, BitVec.toNat_ofNat, hmod, Bool.toNat_false, Nat.add_zero, daaLow_bcd_add,
    daaHigh_bcd_add hx hy, decide_eq_true_eq, and_true]
  exact bcd_add_corrected hx hy

end

/-- R162: ADD writes the adder's result to A and the flags. -/
theorem exec_add_of_r8Ok {s : State} {src : R8} (h : s.r8Ok src) :
    exec (.add src) s = .next ((s.setAcc (add8 s.a (s.r8Value src) false)).after 1 (src.cost 4 7)) :=
  (finish_bind_of_ok (readR8_of_r8Ok h)).trans (finish_advance rfl rfl)

/-- R174: DAA writes the corrected byte to A and the flags. -/
theorem exec_daa (s : State) : exec .daa s = .next ((s.setAcc (daa8 s.a s.fl.cy s.fl.ac)).after 1 4) :=
  finish_advance rfl rfl

/-- Settles O39: DAA makes the corrections that the two carries and the digits of the sum call for. -/
theorem daaCorrectsDecimalSum : Obligations.DaaCorrectsDecimalSum := by
  intro s t u x y src hx hy hsrc ha hv ht hu
  obtain rfl := Host.Outcome.next.inj ((exec_add_of_r8Ok hsrc).symm.trans ht)
  obtain rfl := Host.Outcome.next.inj ((exec_daa _).symm.trans hu)
  exact daa8_add8_bcd hx hy ha hv

end Sys2Proof.Machine
end

section
/-! The logical instructions (43_logical.md): a bitwise result to A with all five flags, the comparison, the rotates and the
complement against the bit vector library and numbers. -/

namespace Sys2Proof.Machine

section
variable {s : State} {i : Instr}

/-! A result to A and all five flags, whatever the result (R180 to R186). -/

theorem finish_setAcc_res (o : AluOut) :
    finish i s (.ok (.advance (s.setAcc o))) = .next (s.accResult o.res.toNat o.cy o.ac i.length i.cost) := by
  refine (finish_advance rfl rfl).trans ?_
  rw [State.setAcc, State.accResult, ofAlu_eq_refFlags, BitVec.ofNat_toNat, BitVec.setWidth_eq]

/-- The same from an 8-bit operand that can be read (R94). -/
theorem finish_r8_setAcc_res {src : R8} (op : Byte → AluOut) (h : s.r8Ok src) :
    finish i s (s.readR8 src >>= fun v => .ok (.advance (s.setAcc (op v)))) =
      .next (s.accResult (op (s.r8Value src)).res.toNat (op (s.r8Value src)).cy (op (s.r8Value src)).ac i.length i.cost) :=
  (finish_bind_of_ok (readR8_of_r8Ok h)).trans (finish_setAcc_res _)

end

/-- R180: the AuxCarry of AND. -/
theorem and8_ac (p : AnaAc) (x y : Byte) : (and8 p x y).ac = (p == .orBit3 && (x.getLsbD 3 || y.getLsbD 3)) := by
  cases p with
  | orBit3 => exact BitVec.getLsbD_or
  | clear => rfl

/-- Settles O33: the bitwise result and its two carries, at a readable operand and at an immediate byte. -/
theorem logicResult : Obligations.LogicResult := by
  intro s src d8
  simp only [← and8_ac]
  exact ⟨rfl, rfl, rfl, rfl, rfl, rfl,
    fun h => ⟨finish_r8_setAcc_res (and8 s.cfg.anaAc s.a) h, finish_r8_setAcc_res (xor8 s.a) h,
      finish_r8_setAcc_res (or8 s.a) h⟩,
    finish_setAcc_res (and8 ..), finish_setAcc_res (xor8 ..), finish_setAcc_res (or8 ..)⟩

/-! The comparison (R187, R188). -/

theorem sub_mod_eq_zero_iff (x y : Byte) : (x.toNat + 256 - y.toNat) % 256 = 0 ↔ x.toNat = y.toNat := by
  have hx := x.isLt
  have hy := y.isLt
  omega

/-- The flags of the difference without a borrow-in: Zero says that the operands are equal. -/
theorem ofAlu_sub8 (x y : Byte) :
    Flags.ofAlu (sub8 x y false) =
      { refFlags ((x.toNat + 256 - y.toNat) % 256) (x.toNat < y.toNat) (y.toNat % 16 ≤ x.toNat % 16) with
        z := decide (x.toNat = y.toNat) } := by
  rw [ofAlu_eq_refFlags, sub8_eq, BitVec.toNat_ofNat, Nat.mod_mod, ← decide_eq_decide.mpr (sub_mod_eq_zero_iff x y)]
  rfl

/-- Settles O32: the flags of the difference, at a readable operand and at an immediate byte. -/
theorem compareResult : Obligations.CompareResult := by
  intro s src d8
  simp only [← ofAlu_sub8]
  exact ⟨rfl, rfl, fun h => (finish_bind_of_ok (readR8_of_r8Ok h)).trans (finish_advance rfl rfl), finish_advance rfl rfl⟩

/-! The rotates through Carry (R191, R192), bit by bit on the nine bits of Carry and A. -/

theorem getLsbD_carryByte (cy : Bool) (k : Nat) : (BitVec.ofNat 8 cy.toNat).getLsbD k = (decide (k = 0) && cy) := by
  cases cy with
  | false => simp
  | true => exact BitVec.getLsbD_one.trans (by simp)

/-- Bit 0 is the old Carry, bit 8 the old bit 7, and every other bit the one below it. -/
theorem cons_ral8 (x : Byte) (cy : Bool) :
    BitVec.cons (ral8 x cy).2 (ral8 x cy).1 = (BitVec.cons cy x).rotateLeft 1 := by
  apply BitVec.eq_of_getLsbD_eq
  intro k (hk : k < 9)
  simp only [ral8, BitVec.getLsbD_cons, BitVec.getLsbD_rotateLeft, BitVec.getLsbD_or, BitVec.getLsbD_shiftLeft,
    getLsbD_carryByte]
  obtain rfl | hbit0 := eq_or_ne k 0
  · simp
  obtain rfl | hbit8 := eq_or_ne k 8
  · simp
  · have hlt : k < 8 := by omega
    have hbelow : k - 1 ≠ 8 := by omega
    simp [hk, hbit0, hbit8, hlt, hbelow]

/-- Bit 7 is the old Carry, bit 8 the old bit 0, and every other bit the one above it. -/
theorem cons_rar8 (x : Byte) (cy : Bool) :
    BitVec.cons (rar8 x cy).2 (rar8 x cy).1 = (BitVec.cons cy x).rotateRight 1 := by
  apply BitVec.eq_of_getLsbD_eq
  intro k (hk : k < 9)
  simp only [rar8, BitVec.getLsbD_cons, BitVec.getLsbD_rotateRight, BitVec.getLsbD_or, BitVec.getLsbD_shiftLeft,
    BitVec.getLsbD_ushiftRight, getLsbD_carryByte]
  obtain rfl | hbit8 := eq_or_ne k 8
  · simp
  obtain rfl | hbit7 := eq_or_ne k 7
  · simp
  · have hlt : k < 7 := by omega
    have habove : 1 + k ≠ 8 := by omega
    have hbyte : k < 8 := by omega
    simp [hbit8, hlt, hbyte, habove]

/-- Settles O40: the 8-bit rotates are the library's by definition, the 9-bit ones by their bits. -/
theorem rotateResult : Obligations.RotateResult :=
  fun s => ⟨rfl, rfl, rfl, rfl, finish_advance (u := s.setRotate (rlc8 s.a)) rfl rfl,
    finish_advance (u := s.setRotate (rrc8 s.a)) rfl rfl,
    ⟨_, finish_advance rfl rfl, rfl, cons_ral8 ..⟩, ⟨_, finish_advance rfl rfl, rfl, cons_rar8 ..⟩⟩

/-! The complement of A and the two writes of Carry (R193, R194, R195). -/

theorem xor_0xFF_eq_ofNat (x : Byte) : x ^^^ 0xFF = BitVec.ofNat 8 (255 - x.toNat) := by
  apply BitVec.eq_of_toNat_eq
  rw [show (0xFF : Byte) = BitVec.allOnes 8 from rfl, BitVec.xor_allOnes, BitVec.toNat_not, BitVec.toNat_ofNat]
  omega

/-- Settles O41: each of the three is the central advance of its one update. -/
theorem complementAndCarryResult : Obligations.ComplementAndCarryResult := by
  intro s
  rw [← xor_0xFF_eq_ofNat]
  exact ⟨⟨rfl, finish_advance rfl rfl⟩, ⟨rfl, finish_advance rfl rfl⟩, ⟨rfl, finish_advance rfl rfl⟩⟩

end Sys2Proof.Machine
end

section
/-! The control transfer instructions (44_branch.md): a transfer completed, the push of a return address and the pop of one, each in
range and refused, and the conditional forms as a transfer or the central advance (R97). -/

namespace Sys2Proof.Machine

section
variable {s : State} {i : Instr} {w ret : Word}

/-- An instruction that transfers and has not written the cycle total itself (R125, R126). -/
theorem finish_redirect {u : State} (hcycles : u.cycles = s.cycles) :
    finish i s (.ok (.redirect u w)) = .next (u.goto w i.costTaken) := by
  simp only [finish, State.goto, hcycles]

/-- R202: a conditional jump, by its condition. -/
theorem finish_jumpIf (cnd : Cond) :
    finish i s (jumpIf cnd w s) = .next (if s.fl.cond cnd then s.goto w i.costTaken else s.after i.length i.cost) := by
  unfold jumpIf
  split
  · exact finish_redirect rfl
  · exact finish_advance rfl rfl

/-! A return address pushed, then a transfer: what CALL, a taken conditional call and RST do (R203, R207). -/

theorem finish_pushTransfer_of_pushOk (h : s.pushOk) :
    ∃ t, finish i s (s.push16 .write ret >>= fun t => .ok (.redirect t w)) = .next t ∧
      t = { s.goto w i.costTaken with sp := s.sp - 2, mem := t.mem } ∧
      s.storedWord t (s.sp - 2).toNat (hiByte ret) (loByte ret) :=
  ⟨_, (finish_bind_of_ok (push16_of_pushOk h)).trans (finish_redirect rfl), rfl, storedWord_write rfl⟩

theorem finish_pushTransfer_of_not_pushOk (h : ¬ s.pushOk) :
    finish i s (s.push16 .write ret >>= fun t => .ok (.redirect t w)) =
      .next (s.takeFault (.addressOutOfRange s.pc (some i.opcode) (s.wordFaultAddr (s.sp - 2).toNat) .write)) :=
  finish_bind_of_error (push16_of_not_pushOk h)

/-- R204: a conditional call, by its condition and the range of its push. -/
theorem finish_callIf (cnd : Cond) :
    (s.fl.cond cnd = true → s.pushOk → ∃ t, finish i s (callIf cnd w s) = .next t ∧
      t = { s.goto w i.costTaken with sp := s.sp - 2, mem := t.mem } ∧
      s.storedWord t (s.sp - 2).toNat (hiByte (s.pc + 3)) (loByte (s.pc + 3))) ∧
    (s.fl.cond cnd = true → ¬ s.pushOk → finish i s (callIf cnd w s) =
      .next (s.takeFault (.addressOutOfRange s.pc (some i.opcode) (s.wordFaultAddr (s.sp - 2).toNat) .write))) ∧
    (s.fl.cond cnd = false → finish i s (callIf cnd w s) = .next (s.after i.length i.cost)) := by
  unfold callIf
  cases s.fl.cond cnd with
  | true => exact ⟨fun _ => finish_pushTransfer_of_pushOk, fun _ => finish_pushTransfer_of_not_pushOk, nofun⟩
  | false => exact ⟨nofun, nofun, fun _ => finish_advance rfl rfl⟩

/-! A return: the pop, then the transfer to the popped word (R205). -/

theorem finish_returnFrom_of_popOk (h : s.popOk) :
    finish i s (returnFrom s) =
      .next ({ s with sp := s.sp + 2 }.goto (s.mem.read (s.sp.toNat + 1) ++ s.mem.read s.sp.toNat) i.costTaken) :=
  (finish_bind_of_ok (pop16_of_popOk h)).trans (finish_redirect rfl)

theorem finish_returnFrom_of_not_popOk (h : ¬ s.popOk) :
    finish i s (returnFrom s) =
      .next (s.takeFault (.addressOutOfRange s.pc (some i.opcode) (s.wordFaultAddr s.sp.toNat) .read)) :=
  finish_bind_of_error (pop16_of_not_popOk h)

/-- R206: a conditional return, by its condition and the range of its pop; not taken, it reads nothing, whatever SP is. -/
theorem finish_returnIf (cnd : Cond) :
    (s.fl.cond cnd = true → s.popOk → finish i s (returnIf cnd s) =
      .next ({ s with sp := s.sp + 2 }.goto (s.mem.read (s.sp.toNat + 1) ++ s.mem.read s.sp.toNat) i.costTaken)) ∧
    (s.fl.cond cnd = true → ¬ s.popOk → finish i s (returnIf cnd s) =
      .next (s.takeFault (.addressOutOfRange s.pc (some i.opcode) (s.wordFaultAddr s.sp.toNat) .read))) ∧
    (s.fl.cond cnd = false → finish i s (returnIf cnd s) = .next (s.after i.length i.cost)) := by
  unfold returnIf
  cases s.fl.cond cnd with
  | true => exact ⟨fun _ => finish_returnFrom_of_popOk, fun _ => finish_returnFrom_of_not_popOk, nofun⟩
  | false => exact ⟨nofun, nofun, fun _ => finish_advance rfl rfl⟩

end

/-- R207: the opcode byte of RST n has the vector number in bits 5 to 3. -/
theorem opcode_rst (n : VecNum) : (Instr.rst n).opcode = BitVec.ofNat 8 (0xC7 + 8 * n.val) := by
  revert n
  decide

/-- Settles O42: JMP transfers, and each conditional jump does by its condition. -/
theorem jumpResult : Obligations.JumpResult :=
  fun _ _ => ⟨⟨rfl, finish_redirect rfl⟩, ⟨rfl, finish_jumpIf .nz⟩, ⟨rfl, finish_jumpIf .z⟩, ⟨rfl, finish_jumpIf .nc⟩,
    ⟨rfl, finish_jumpIf .c⟩, ⟨rfl, finish_jumpIf .po⟩, ⟨rfl, finish_jumpIf .pe⟩, ⟨rfl, finish_jumpIf .p⟩,
    ⟨rfl, finish_jumpIf .m⟩⟩

/-- Settles O43: CALL pushes and transfers, and each conditional call does by its condition. -/
theorem callResult : Obligations.CallResult :=
  fun _ _ => ⟨⟨rfl, fun _ => finish_pushTransfer_of_pushOk, fun _ => finish_pushTransfer_of_not_pushOk, nofun⟩,
    ⟨rfl, finish_callIf .nz⟩, ⟨rfl, finish_callIf .z⟩, ⟨rfl, finish_callIf .nc⟩, ⟨rfl, finish_callIf .c⟩,
    ⟨rfl, finish_callIf .po⟩, ⟨rfl, finish_callIf .pe⟩, ⟨rfl, finish_callIf .p⟩, ⟨rfl, finish_callIf .m⟩⟩

/-- Settles O44: RET pops and transfers, and each conditional return does by its condition. -/
theorem returnResult : Obligations.ReturnResult :=
  fun _ => ⟨⟨rfl, fun _ => finish_returnFrom_of_popOk, fun _ => finish_returnFrom_of_not_popOk, nofun⟩,
    ⟨rfl, finish_returnIf .nz⟩, ⟨rfl, finish_returnIf .z⟩, ⟨rfl, finish_returnIf .nc⟩, ⟨rfl, finish_returnIf .c⟩,
    ⟨rfl, finish_returnIf .po⟩, ⟨rfl, finish_returnIf .pe⟩, ⟨rfl, finish_returnIf .p⟩, ⟨rfl, finish_returnIf .m⟩⟩

/-- Settles O45: the push of the next address and the transfer to the vector, which leave the enable as it is. -/
theorem rstResult : Obligations.RstResult := by
  intro s n
  rw [← opcode_rst n]
  exact ⟨rfl, finish_pushTransfer_of_pushOk, finish_pushTransfer_of_not_pushOk⟩

end Sys2Proof.Machine
end

section
/-! The stack and port instructions (45_stack_io_control.md): the push of a word and the pop of one, completed once for
pairs and PSW, the exchange with the top of the stack, and the pop that finds what a push left. -/

namespace Sys2Proof.Machine

section
variable {s t : State} {i : Instr}

/-- A push in range, then the central advance (R220, R222, R223). -/
theorem finish_push_of_pushOk (hi lo : Byte) (h : s.pushOk) :
    ∃ t, finish i s (s.push16 .write (concat hi lo) >>= fun t => .ok (.advance t)) = .next t ∧
      t = { s.after i.length i.cost with sp := s.sp - 2, mem := t.mem } ∧ s.storedWord t (s.sp - 2).toNat hi lo := by
  refine ⟨_, (finish_bind_of_ok (push16_of_pushOk h)).trans (finish_advance rfl rfl), rfl, storedWord_write ?_⟩
  simp only [State.after, hiByte_concat, loByte_concat]

/-- A pop in range, into whatever registers `g` writes, then the central advance (R221, R224, R225). -/
theorem finish_pop_of_popOk {g : Word → State → State} (hpc : ∀ w t, (g w t).pc = t.pc)
    (hcycles : ∀ w t, (g w t).cycles = t.cycles) (h : s.popOk) :
    finish i s (s.pop16 >>= fun r => .ok (.advance (g r.1 r.2))) =
      .next ((g (concat (s.mem.read (s.sp.toNat + 1)) (s.mem.read s.sp.toNat)) { s with sp := s.sp + 2 }).after
        i.length i.cost) :=
  (finish_bind_of_ok (pop16_of_popOk h)).trans (finish_advance (hpc ..) (hcycles ..))

/-- R220, R221: a pop that finds SP where a push left it, and the pushed bytes there, answers the pushed word and restores SP. -/
theorem pop16_of_pushed {hi lo : Byte} (h : s.pushOk) (hcfg : t.cfg = s.cfg) (hsp : t.sp = s.sp - 2)
    (hst : s.storedWord t (s.sp - 2).toNat hi lo) : t.pop16 = .ok (concat hi lo, { t with sp := s.sp }) := by
  have hread : t.memRead2 .read t.sp.toNat = .ok (concat hi lo) := by
    rw [hsp]
    exact memRead2_of_storedWord hst (by simpa only [State.inRange, hcfg] using h)
  have hback : t.sp + 2 = s.sp := by rw [hsp, BitVec.sub_add_cancel]
  simp only [State.pop16, hread, hback]
  rfl

end

/-! The encodings of PUSH and POP (R96), and the two bytes of PSW (R29). -/

theorem opcode_push (p : Pair) : (Instr.push p).opcode = 0b11#2 ++ p.code ++ 0b0101#4 := by
  cases p <;> rfl

theorem opcode_pop (p : Pair) : (Instr.pop p).opcode = 0b11#2 ++ p.code ++ 0b0001#4 := by
  cases p <;> rfl

/-- R29: the flag byte as a number. -/
theorem toByte_eq_ofNat (fl : Flags) :
    fl.toByte = BitVec.ofNat 8
      (128 * fl.s.toNat + 64 * fl.z.toNat + 16 * fl.ac.toNat + 4 * fl.p.toNat + 2 + fl.cy.toNat) := by
  obtain ⟨z, s, p, cy, ac⟩ := fl
  revert z s p cy ac
  decide

theorem setPsw_concat (s : State) (hi lo : Byte) : s.setPsw (concat hi lo) = { s with a := hi, fl := Flags.ofByte lo } := by
  rw [State.setPsw, hiByte_concat, loByte_concat]

/-- Settles O46: a pair and PSW are each pushed as a word of two bytes, the flag byte being the low one of PSW. -/
theorem pushResult : Obligations.PushResult := by
  intro s p
  rw [← opcode_push]
  refine ⟨⟨rfl, finish_push_of_pushOk _ _, fun h => finish_bind_of_error (push16_of_not_pushOk h)⟩,
    ⟨rfl, fun h => ?_, fun h => finish_bind_of_error (push16_of_not_pushOk h)⟩⟩
  rw [← toByte_eq_ofNat]
  exact finish_push_of_pushOk _ _ h

/-- Settles O47: the popped word goes to a pair or to PSW, each from its two bytes. -/
theorem popResult : Obligations.PopResult := by
  intro s p
  rw [← opcode_pop]
  refine ⟨⟨rfl, fun h => ?_, fun h => finish_bind_of_error (pop16_of_not_popOk h)⟩,
    ⟨rfl, fun h => ?_, fun h => finish_bind_of_error (pop16_of_not_popOk h)⟩⟩
  · rw [← setPair_concat]
    exact finish_pop_of_popOk (fun w t => setPair_pc t w p) (fun w t => setPair_cycles t w p) h
  · refine (finish_pop_of_popOk (g := fun w t => t.setPsw w) (fun _ _ => rfl) (fun _ _ => rfl) h).trans ?_
    rw [setPsw_concat]
    rfl

/-- Settles O48: the read comes first, and in range the write at the same address is in range too. -/
theorem xthlResult : Obligations.XthlResult := by
  refine fun s => ⟨rfl, fun h => ?_, fun h => finish_bind_of_error (memRead2_of_not_inRange h)⟩
  refine ⟨_, (finish_bind_of_ok (memRead2_of_inRange h)).trans
    ((finish_bind_of_ok (memWrite2_of_inRange h)).trans (finish_advance rfl rfl)), ?_, storedWord_write ?_⟩
  · rw [setPair_concat]
    rfl
  · simp only [State.hl, State.getPair, hiByte_concat, loByte_concat]
    rfl

/-! PUSH PSW then POP PSW, and CALL then RET: the pop answers the word that was pushed (R225, R203, R205). -/

theorem pushPsw_popPsw_restores {s : State} (h : s.pushOk) :
    ∃ t u, exec .pushPsw s = .next t ∧ exec .popPsw t = .next u ∧ u.a = s.a ∧ u.fl = s.fl ∧ u.sp = s.sp := by
  obtain ⟨t, ht, hframe, hst⟩ := finish_push_of_pushOk (i := .pushPsw) s.a s.fl.toByte h
  have hpop := pop16_of_pushed h (congrArg State.cfg hframe :) (congrArg State.sp hframe :) hst
  refine ⟨t, _, ht, (finish_bind_of_ok hpop).trans (finish_advance rfl rfl), ?_⟩
  rw [setPsw_concat, ofByte_toByte]
  exact ⟨rfl, rfl, rfl⟩

theorem call_ret_resumes {s : State} (w : Word) (h : s.pushOk) :
    ∃ t u, exec (.call w) s = .next t ∧ exec .ret t = .next u ∧
      t.pc = w ∧ u.pc = s.pc + 3 ∧ u.sp = s.sp ∧ u.mem = t.mem := by
  obtain ⟨t, ht, hframe, hst⟩ := finish_pushTransfer_of_pushOk (i := .call w) (w := w) (ret := s.pc + 3) h
  have hpop := pop16_of_pushed h (congrArg State.cfg hframe :) (congrArg State.sp hframe :) hst
  rw [concat_hi_lo] at hpop
  exact ⟨t, _, ht, (finish_bind_of_ok hpop).trans (finish_redirect rfl), congrArg State.pc hframe, rfl, rfl, rfl⟩

/-- Settles O51, each pair of instructions whenever its push is in range. -/
theorem stackRoundTrips : Obligations.StackRoundTrips :=
  fun _ w h => ⟨pushPsw_popPsw_restores h, call_ret_resumes w h⟩

/-- Settles O49: each is the central advance of its one update, IN with the host's answer and OUT with one more event. -/
theorem portResult : Obligations.PortResult :=
  fun _ _ => ⟨⟨rfl, finish_advance rfl rfl⟩, ⟨rfl, finish_advance rfl rfl⟩⟩

end Sys2Proof.Machine
end

section
/-! Faults and the interrupt entry (60_exceptions.md): what the entry leaves in range and refused (R249), the fetch of an unbound
byte (R241), a refused read of the operand M (R242), and the record of every faulting step (R243, R244). -/

namespace Sys2Proof

/-- The table does not bind a byte exactly where its entry is the Unimplemented one of that byte (R107). -/
theorem descriptor_eq_none_iff {t : Table} {op : Byte} :
    descriptor t op = none ↔ lookup t op 0 0 = .unimplemented op := by
  unfold descriptor
  split
  · next op' h =>
    obtain ⟨rfl, -⟩ := lookup_eq_unimplemented_iff.1 h
    exact iff_of_true rfl h
  · next h => exact iff_of_false nofun (h op)

/-- Every instruction takes time (R279); the Unimplemented entry never completes. -/
theorem cost_pos {i : Instr} (hop : ∀ op, i ≠ .unimplemented op) : 0 < i.cost := by
  cases i with
  | unimplemented op => exact absurd rfl (hop op)
  | add x | adc x | sub x | sbb x | ana x | xra x | ora x | cmp x | inr x | dcr x => cases x <;> exact Nat.succ_pos _
  | _ => exact Nat.succ_pos _

/-- A transfer costs the figure of a taken conditional call or return, or the base cost (R126). -/
theorem costTaken_pos {i : Instr} (hop : ∀ op, i ≠ .unimplemented op) : 0 < i.costTaken := by
  cases i with
  | cnz | cz | cnc | cc | cpo | cpe | cp | cm | rnz | rz | rnc | rc | rpo | rpe | rp | rm => exact Nat.succ_pos _
  | _ => exact cost_pos hop

end Sys2Proof

namespace Sys2Proof.Machine

section
variable {s t : State} {n : VecNum}

/-! The interrupt entry, its push in range and refused (R249). -/

theorem interruptDue_of_enabled (hinte : s.inte = true) (hpend : s.pending = some n) : s.interruptDue = some n := by
  simp [State.interruptDue, hinte, hpend]

theorem interruptEntry_of_pushOk (h : s.pushOk) :
    s.interruptEntry n = { s with
      sp := s.sp - 2, pc := vectorAddress n, inte := false, pending := none, cycles := s.cycles + 11
      mem := (s.mem.write (s.sp - 2).toNat (loByte s.pc)).write ((s.sp - 2).toNat + 1) (hiByte s.pc) } := by
  simp only [State.interruptEntry, push16_of_pushOk h]

theorem interruptEntry_of_not_pushOk (h : ¬ s.pushOk) :
    s.interruptEntry n = s.takeFault (.addressOutOfRange s.pc none (s.wordFaultAddr (s.sp - 2).toNat) .interrupt) := by
  simp only [State.interruptEntry, push16_of_not_pushOk h]

/-! The fetch of an unbound byte reads no operand byte (R241, R250). -/

theorem fetchInstr_of_descriptor_eq_none (hr : s.inRange s.pc.toNat)
    (hd : descriptor s.cfg.table (s.mem.read s.pc.toNat) = none) :
    s.fetchInstr = .ok (.unimplemented (s.mem.read s.pc.toNat)) := by
  have hentry := descriptor_eq_none_iff.1 hd
  have hlen : opcodeLength s.cfg.table (s.mem.read s.pc.toNat) = 1 := by
    rw [opcodeLength, hentry]
    rfl
  refine fetchInstr_eq_ok.2 ⟨hr, [], ?_, hentry.symm⟩
  rw [hlen]
  rfl

/-! The record of each faulting step is one that R244 allows. -/

/-- An instruction that begins Running and ends Faulted has raised its fault: had it completed, it would have cost cycles, which a
fault does not. -/
theorem exec_faulted {i : Instr} (hs : s.status = .running) (h : exec i s = .next t) (ht : t.status = .faulted) :
    (∃ op, i = .unimplemented op ∧ t = s.takeFault (.unimplementedOpcode s.pc op)) ∨
    ∃ f, s.Refuses f ∧ t = s.takeFault (.addressOutOfRange s.pc (some i.opcode) f.addr f.access) := by
  by_cases hop : ∃ op, i = .unimplemented op
  · obtain ⟨op, rfl⟩ := hop
    exact .inl ⟨op, rfl, (Host.Outcome.next.inj h).symm⟩
  · have hop' : ∀ op, i ≠ .unimplemented op := fun op hi => hop ⟨op, hi⟩
    obtain ⟨hfault, -⟩ := centralAdvanceAndCost i s t hs h
    obtain ⟨-, hcycles⟩ := hfault ht
    obtain ⟨e, he, hrefused, -⟩ := exec_accesses i s hop'
    obtain ⟨f, rfl, rfl⟩ | ⟨u, -, rfl⟩ | ⟨u, target, -, rfl⟩ := finish_next (he ▸ h)
    · exact .inr ⟨f, hrefused f rfl, rfl⟩
    · exact absurd hcycles (Nat.ne_of_gt (Nat.lt_add_of_pos_right (cost_pos hop')))
    · exact absurd hcycles (Nat.ne_of_gt (Nat.lt_add_of_pos_right (costTaken_pos hop')))

/-- The interrupt entry faults only by its push, whose first address out of range is at most 0x10000 (R72, R249). -/
theorem interruptEntry_faulted (hs : s.status = .running) (hdue : s.interruptDue = some n)
    (ht : (s.interruptEntry n).status = .faulted) : ∃ r, s.interruptEntry n = s.takeFault r ∧ s.recordsFault r := by
  by_cases h : s.pushOk
  · rw [interruptEntry_of_pushOk h] at ht
    exact absurd (hs.symm.trans ht) nofun
  · obtain ⟨hlo, hhi⟩ := wordFaultAddr_bounds h
    exact ⟨_, interruptEntry_of_not_pushOk h, rfl, rfl, Nat.not_lt.2 hlo, hhi, by simp [hdue], nofun⟩

/-- A refused fetch: an operand byte is refused at `MEM_SIZE`, which is at most 0x10000 on a legal machine (R124, R270). -/
theorem fetchInstr_error_recordsFault {r : FaultRecord} (hc : s.cfg.valid) (hdue : s.interruptDue = none)
    (h : s.fetchInstr = .error r) : s.recordsFault r := by
  obtain ⟨hr, rfl⟩ | ⟨-, rfl⟩ := fetchInstr_eq_error h
  · exact ⟨rfl, rfl, hr, s.pc.isLt.le, by simp [hdue], fun _ => rfl⟩
  · exact ⟨rfl, rfl, Nat.lt_irrefl _, hc.2, by simp [hdue], nofun⟩

/-- A refused access of the fetched instruction is recorded with the byte at `pc`, which is its opcode byte. -/
theorem State.Refuses.recordsFault {f : AccessFault} {i : Instr} (hf : s.Refuses f) (hdue : s.interruptDue = none)
    (hi : s.fetchInstr = .ok i) : s.recordsFault (.addressOutOfRange s.pc (some i.opcode) f.addr f.access) := by
  obtain ⟨-, vs, -, rfl⟩ := fetchInstr_eq_ok.1 hi
  obtain ⟨addr, acc⟩ := f
  obtain ⟨hlo, hhi, rfl | rfl⟩ := hf <;> exact ⟨rfl, by simp, Nat.not_lt.2 hlo, hhi, by simp [hdue], nofun⟩

/-- A fetch that yields the Unimplemented entry has read a byte that the table does not bind. -/
theorem fetchInstr_unimplemented_recordsFault {op : Byte} (hdue : s.interruptDue = none)
    (hi : s.fetchInstr = .ok (.unimplemented op)) : s.recordsFault (.unimplementedOpcode s.pc op) := by
  obtain ⟨-, vs, -, hentry⟩ := fetchInstr_eq_ok.1 hi
  obtain ⟨hop, -⟩ := lookup_eq_unimplemented_iff.1 hentry.symm
  exact ⟨hdue, rfl, hop.symm, descriptor_eq_none_iff.2 (fetchInstr_unimplemented_wf hi)⟩

end

/-- Settles O9: the step is the interrupt entry, whose push is in range or refused. -/
theorem interruptEntryStep : Obligations.InterruptEntryStep := by
  intro s n hs hinte hpend
  rw [step_of_interruptDue hs (interruptDue_of_enabled hinte hpend)]
  refine ⟨fun h => ⟨_, rfl, ?_, ?_⟩, fun h => congrArg _ (interruptEntry_of_not_pushOk h)⟩
  · rw [interruptEntry_of_pushOk h]
    rfl
  · rw [interruptEntry_of_pushOk h]
    exact storedWord_write rfl

/-- Settles O12: an unbound byte is fetched as the Unimplemented entry, whose meaning is the fault. -/
theorem unimplementedOpcodeFaults : Obligations.UnimplementedOpcodeFaults :=
  ⟨fun _ hs hdue hr hd => step_of_runs ⟨hs, hdue, fetchInstr_of_descriptor_eq_none hr hd⟩, fun _ _ => rfl⟩

/-- Settles O13, through the three answers of a step. -/
theorem faultsArePrecise : Obligations.FaultsArePrecise := by
  intro s t h ht
  obtain ⟨hs, ⟨n, hdue, rfl⟩ | ⟨hdue, r, hr, rfl⟩ | ⟨hdue, i, hi, hexec⟩⟩ := step_next h
  · obtain ⟨r, hentry, hrec⟩ := interruptEntry_faulted hs hdue ht
    exact ⟨r, hentry, fun _ => hrec⟩
  · exact ⟨r, rfl, fun hc => fetchInstr_error_recordsFault hc hdue hr⟩
  · obtain ⟨op, rfl, rfl⟩ | ⟨f, hf, rfl⟩ := exec_faulted hs hexec ht
    · exact ⟨_, rfl, fun _ => fetchInstr_unimplemented_recordsFault hdue hi⟩
    · exact ⟨_, rfl, fun _ => hf.recordsFault hdue hi⟩

/-- Settles O34: each of these rules begins with the read of M, and a refused first access is the fault of the instruction. -/
theorem memoryOperandFaults : Obligations.MemoryOperandFaults := by
  intro s dst h i hi
  have hread : s.readR8 .m = .error ⟨s.hl.toNat, .read⟩ := readR8_m_of_not_inRange h
  simp only [List.mem_cons, List.not_mem_nil, or_false] at hi
  obtain rfl | rfl | rfl | rfl | rfl | rfl | rfl | rfl | rfl | rfl | rfl := hi <;> exact finish_bind_of_error hread

end Sys2Proof.Machine
end

section
/-! The host between steps (70_reset_and_hazards.md R270 to R276): what each accepted operation answers, that none of them leaves
the legal states, and `restore` of a snapshot after a run (R272, R273). -/

namespace Sys2Proof.Machine

section
variable {s t : State}

/-! Runs of the core. -/

/-- What every step keeps holds after any run. -/
theorem Reaches.keeps {P : State → Prop} (h : Reaches s t) (hP : ∀ u v, P u → Machine.step u = .next v → P v) (hs : P s) :
    P t := by
  induction h with
  | refl => exact hs
  | step _ hstep ih => exact hP _ _ ih hstep

theorem Reaches.inv (h : Reaches s t) (hs : s.Inv) : t.Inv :=
  h.keeps stepKeepsLegalState hs

/-- The parameters outlive every run (R6, R270). -/
theorem Reaches.cfg_eq (h : Reaches s t) : t.cfg = s.cfg :=
  h.keeps (fun u v hu hstep => (controlStateWriters.1 u v hstep).trans hu) rfl

/-! What each host operation answers when it is accepted (R66, R247, R272, R275). -/

theorem hostLoad_eq_ok {bytes : List Byte} {base : Nat} :
    hostLoad bytes base s = .ok t ↔
      base + bytes.length ≤ s.cfg.memSize ∧ t = { s with mem := s.mem.writeAll base bytes } := by
  by_cases h : base + bytes.length ≤ s.cfg.memSize
  · simp [hostLoad_of_fits h, h, eq_comm]
  · simp [hostLoad_of_not_fits (Nat.not_le.1 h), h]

theorem hostInject_eq_ok {n : Nat} :
    hostInject n s = .ok t ↔ ∃ h : n < 8, t = { s with pending := some ⟨n, h⟩ } := by
  by_cases h : n < 8
  · simp [hostInject_of_lt h, h, eq_comm]
  · simp [hostInject_of_ge (Nat.not_lt.1 h), h]

theorem hostPoke_eq_ok {x : Nat} {v : Byte} :
    hostPoke x v s = .ok t ↔ s.inRange x ∧ t = { s with mem := s.mem.write x v } := by
  unfold hostPoke
  split
  · next h => simp [Nat.not_lt.2 h]
  · next h => simp [Nat.not_le.1 h, eq_comm]

theorem hostRestore_of_cfg_eq {snap : State} (h : snap.cfg = s.cfg) :
    hostRestore snap s = .ok { snap with portReads := s.portReads, portWrites := s.portWrites } :=
  if_pos h

theorem hostRestore_eq_ok {snap : State} :
    hostRestore snap s = .ok t ↔
      snap.cfg = s.cfg ∧ t = { snap with portReads := s.portReads, portWrites := s.portWrites } := by
  by_cases h : snap.cfg = s.cfg
  · simp [hostRestore_of_cfg_eq h, h, eq_comm]
  · simp [hostRestore, h]

/-! No host operation leaves the legal states (R276). -/

/-- Whether a state is legal is read off its parameters, memory, status and fault record. -/
theorem State.Inv.congr (h : s.Inv) (hcfg : t.cfg = s.cfg) (hmem : t.mem = s.mem) (hstatus : t.status = s.status)
    (hfault : t.fault = s.fault) : t.Inv where
  cfg_valid := hcfg ▸ h.cfg_valid
  mem_wf := hmem ▸ h.mem_wf
  mem_inRange := by rw [hmem, hcfg]; exact h.mem_inRange
  fault_iff := by rw [hfault, hstatus]; exact h.fault_iff
  fault_wf := by rw [hfault, hcfg]; exact h.fault_wf

/-- Memory may be replaced by any canonical one inside the machine's size (R60). -/
theorem State.Inv.withMem {m : Memory} (h : s.Inv) (hwf : m.wf) (hr : ∀ cell ∈ m, s.inRange cell.1) :
    { s with mem := m }.Inv where
  cfg_valid := h.cfg_valid
  mem_wf := hwf
  mem_inRange := hr
  fault_iff := h.fault_iff
  fault_wf := h.fault_wf

/-- A host call that is legal where it is accepted is legal where it is refused: there it changes nothing. -/
theorem State.Inv.orUnchanged {e : Except HostError State} (h : s.Inv) (he : ∀ t, e = .ok t → t.Inv) :
    (orUnchanged s e).Inv := by
  cases e with
  | ok t => exact he t rfl
  | error _ => exact h

theorem hostLoad_inv {bytes : List Byte} {base : Nat} (h : s.Inv) (ht : hostLoad bytes base s = .ok t) : t.Inv := by
  obtain ⟨hfits, rfl⟩ := hostLoad_eq_ok.1 ht
  refine h.withMem (Memory.wf_writeAll _ _ _ h.mem_wf) fun cell hc => ?_
  obtain ⟨-, hlt⟩ | hc := Memory.mem_writeAll _ _ _ hc
  · exact lt_of_lt_of_le hlt hfits
  · exact h.mem_inRange cell hc

theorem hostPoke_inv {x : Nat} {v : Byte} (h : s.Inv) (ht : hostPoke x v s = .ok t) : t.Inv := by
  obtain ⟨hx, rfl⟩ := hostPoke_eq_ok.1 ht
  refine h.withMem (Memory.wf_write _ _ _ h.mem_wf) fun cell hc => ?_
  obtain rfl | hc := Memory.mem_write _ _ _ hc
  · exact hx
  · exact h.mem_inRange cell hc

theorem hostInject_inv {n : Nat} (h : s.Inv) (ht : hostInject n s = .ok t) : t.Inv := by
  obtain ⟨_, rfl⟩ := hostInject_eq_ok.1 ht
  exact h.congr rfl rfl rfl rfl

/-- A restored state is legal if the snapshot is: legality does not read the record of port transactions (log entry 10). -/
theorem hostRestore_inv {snap : State} (hsnap : snap.Inv) (ht : hostRestore snap s = .ok t) : t.Inv := by
  obtain ⟨-, rfl⟩ := hostRestore_eq_ok.1 ht
  exact hsnap.congr rfl rfl rfl rfl

theorem hostAct_inv {act : HostAction} (h : s.Inv) (hsnap : ∀ snap, act = .restore snap → snap.Inv) :
    (hostAct s act).Inv := by
  cases act with
  | step => exact (Reaches.refl s).hostStep.inv h
  | load bytes base => exact h.orUnchanged fun _ => hostLoad_inv h
  | inject n => exact h.orUnchanged fun _ => hostInject_inv h
  | poke x v => exact h.orUnchanged fun _ => hostPoke_inv h
  | setReg r v => exact h.congr (setReg_cfg s r v) (setReg_mem s r v) (setReg_status s r v) (setReg_fault s r v)
  | setPair p v => exact h.congr (setPair_cfg s v p) (setPair_mem s v p) (setPair_status s v p) (setPair_fault s v p)
  | setSp | setPc | setFlag => exact h.congr rfl rfl rfl rfl
  | restore snap => exact h.orUnchanged fun _ => hostRestore_inv (hsnap snap rfl)

end

/-- Settles O16, by induction on the operations: each keeps a legal state legal. -/
theorem hostKeepsLegalState : Obligations.HostKeepsLegalState := by
  intro acts s h hsnap
  induction acts generalizing s with
  | nil => exact h
  | cons act acts ih =>
    have hact : (hostAct s act).Inv := hostAct_inv h fun snap hr => hsnap snap (hr ▸ List.mem_cons_self)
    exact ih _ hact fun snap hr => hsnap snap (List.mem_cons_of_mem _ hr)

/-- Settles O58: no run changes the parameters, the one thing that `restore` tests. -/
theorem snapshotRestore : Obligations.SnapshotRestore :=
  ⟨fun _ => hostRestore_of_cfg_eq rfl, fun _ _ h => hostRestore_of_cfg_eq h.cfg_eq.symm⟩

end Sys2Proof.Machine
end
